-- ==== Sys2Proof/Word.lean ====
section
/-! DEFINITION. The widths of the block's values (`00_scope.md` R3, R8): septets, bytes, nibbles and tokens. A character
is a natural number below `2^CHAR_W` (compared by equality only, D3) and a command word one below `2^(1 + CHAR_W)`
(`30_encoding.md` R60), because their width `CHAR_W` is a parameter (R4): see `WellFormed.lean` and log 4. -/

namespace Sys2Proof

/-- A septet: a 7-bit unsigned value (`30_encoding.md` R68). -/
abbrev Septet := BitVec 7

/-- A packed byte (`30_encoding.md` R71). -/
abbrev Byte := BitVec 8

/-- Half a byte, rendered as one hexadecimal digit (`30_encoding.md` R73). -/
abbrev Nibble := BitVec 4

/-- A token of the output port: bit 8 is `eom`, bits 7:0 are `ch` (`30_encoding.md` R65). -/
abbrev Token := BitVec 9

end Sys2Proof
end

