-- ==== Sys2Proof/Config.lean ====
section
/-! DEFINITION. What is fixed when the block is built: the source's constants (`00_scope.md` R3), the parameters
`CHAR_W` and `OQ_DEPTH` (R4) and the two tables (R5, R6). Every rule of the model reads a parameter through `Config`. -/

namespace Sys2Proof

/-- `ESC`: the septet that precedes an extension index (`00_scope.md` R3). -/
def esc : Septet := 27

/-- `PAD7 = 0001101`: the filler of the final byte when one data bit is left over (`00_scope.md` R3). -/
def pad7 : Byte := 0x0D

/-- The default of `CHAR_W` (`00_scope.md` R4). -/
def defaultCharW : Nat := 21

/-- The default of `OQ_DEPTH` (`00_scope.md` R4). -/
def defaultOqDepth : Nat := 4

/-- A table entry `(valid, char)` (`20_memory.md` R41). -/
structure TableEntry where
  valid : Bool
  char  : Nat
deriving DecidableEq, Repr

/-- A read-only table: `NCODES = 128` entries, index 0..127 (`30_encoding.md` R74). -/
abbrev Table := Vector TableEntry 128

/-- The parameters of the block. -/
structure Config where
  /-- `CHAR_W`, the width of a character (`00_scope.md` R4). -/
  charW   : Nat
  /-- `OQ_DEPTH`, the capacity of the output queue in tokens (`00_scope.md` R4). -/
  oqDepth : Nat
  /-- `PRIMARY` (`20_memory.md` R40). -/
  primary : Table
  /-- `EXT` (`20_memory.md` R40). -/
  ext     : Table
  /-- The character value that is the carriage return in the character representation chosen (`30_encoding.md` R75:
  U+000D "with the default character representation"). DESIGN CHOICE, log 15, safe. -/
  carriageReturn : Nat
deriving DecidableEq, Repr

end Sys2Proof
end

