-- ==== Sys2Proof/Syntax.lean ====
section
/-! DEFINITION. The commands of the block, the host's transitions and the assembler's lines as syntax. -/

namespace Sys2Proof

/-- The two commands (`30_encoding.md` R60 to R62), one constructor per row of the opcode table. -/
inductive Instr where
  /-- `CHAR c`: encode one character (`40_commands.md` R90). -/
  | char (c : Nat)
  /-- `END`: finish the message (`40_commands.md` R91). It has no operand: the word's `char` field is ignored
  (`30_encoding.md` R62). -/
  | endMsg
deriving DecidableEq, Repr

/-- One transition of the block: a command it accepts, the host's output transfer `POP` (`40_commands.md` R96), or
the reset pin (`70_reset_and_hazards.md` R180). -/
inductive HostAction where
  | command (i : Instr)
  | pop
  | reset
deriving DecidableEq, Repr

/-- One line of the assembler's notation (`30_encoding.md` R78). `charCode` is `CHAR U+hhhh` or `CHAR 'x'`; `msg` is
the pseudo-instruction `MSG "text"` (`40_commands.md` R98); `reset` is no command word but one cycle of the pin. -/
inductive AsmLine where
  | charCode (c : Nat)
  | endMsg
  | reset
  | msg (text : List Nat)
deriving DecidableEq, Repr

/-- Why a line of text is none of the lines of `30_encoding.md` R78. -/
inductive AsmError where
  /-- The line begins with none of `CHAR`, `END`, `RESET`, `MSG`. -/
  | unknownKeyword
  /-- The operand of `CHAR` or `MSG` is missing or malformed. -/
  | badOperand
  /-- Something other than blanks or a comment follows the line. -/
  | trailingText
deriving DecidableEq, Repr

end Sys2Proof
end

