-- ==== Sys2Proof/WellFormed.lean ====
section
/-! DEFINITION. The checks that a term stands for something of the hardware: a configuration the spec allows, a command
whose operand fits the `char` field, a line whose operands do. -/

namespace Sys2Proof

/-- Every character of the table fits in `CHAR_W` bits (`20_memory.md` R40). -/
def Table.fits (charW : Nat) (t : Table) : Bool :=
  t.toList.all fun e => decide (e.char < 2 ^ charW)

/-- What the spec requires of a configuration: `CHAR_W >= 1`, `OQ_DEPTH >= 4` (`00_scope.md` R4), entries of `CHAR_W`
bits (`20_memory.md` R40) and the one entry the source fixes, `PRIMARY[13] = (1, carriage return)`
(`30_encoding.md` R75). -/
def Config.wf (k : Config) : Bool :=
  decide (1 ≤ k.charW) && decide (4 ≤ k.oqDepth) && Table.fits k.charW k.primary && Table.fits k.charW k.ext
    && decide (k.primary[13] = TableEntry.mk true k.carriageReturn)

/-- The operand of `CHAR` is a value of `CHAR_W` bits (`30_encoding.md` R61); `END` has none (R62). -/
def Instr.wf (charW : Nat) : Instr → Bool
  | .char c => decide (c < 2 ^ charW)
  | .endMsg => true

/-- Every character the line names is a value of `CHAR_W` bits. -/
def AsmLine.wf (charW : Nat) : AsmLine → Bool
  | .charCode c => decide (c < 2 ^ charW)
  | .endMsg => true
  | .reset => true
  | .msg text => text.all fun c => decide (c < 2 ^ charW)

end Sys2Proof
end

