-- ==== Sys2Proof/Decode.lean ====
section
/-! DEFINITION. Command words to commands and back (`30_encoding.md` R60 to R63), token words (R65 to R67), and the
assembler's notation (R78). -/

namespace Sys2Proof

/-- The command the `1 + CHAR_W` wires of `in_cmd` carry: bit `CHAR_W` is `end`, bits `CHAR_W-1:0` are `char`
(`30_encoding.md` R60 to R62). Total: every word has exactly one meaning (R63). Wires above bit `CHAR_W` do not exist,
so higher bits of the number are not read (DESIGN CHOICE, log 4, safe: no such word fits the port). -/
def decodeCmd (charW : Nat) (w : Nat) : Instr :=
  if w.testBit charW then .endMsg else .char (w % 2 ^ charW)

/-- Why a number is no command word. -/
inductive DecodeReject where
  /-- It has a bit above bit `CHAR_W`: the port has `1 + CHAR_W` wires (`20_memory.md` R55), so no command word is as
  wide. Log 4. -/
  | widerThanPort
deriving DecidableEq, Repr

/-- The decoder on any number: a value of `1 + CHAR_W` bits is decoded (`30_encoding.md` R63), a wider one is rejected
by name. -/
def decodeWord (charW : Nat) (w : Nat) : Except DecodeReject Instr :=
  if w < 2 ^ (charW + 1) then .ok (decodeCmd charW w) else .error .widerThanPort

/-- The word of a command (`30_encoding.md` R61, R62); for `END` the canonical word, `char` zero. -/
def encode (charW : Nat) : Instr → Nat
  | .char c => c
  | .endMsg => 2 ^ charW

/-- The decoder's answer on an opcode-table word, at the table's width `CHAR_W = 21`. -/
def decodeTableWord (nbits w : Nat) : Option Instr :=
  match decodeWord defaultCharW (w % 2 ^ nbits) with
  | .ok i => some i
  | .error _ => none

/-! ## Tokens -/

/-- `HEX(d)` is `0 ++ d` (`30_encoding.md` R66). -/
def hexToken (d : Byte) : Token := d.setWidth 9

/-- `EOM` is `0x100` (`30_encoding.md` R67). -/
def eomToken : Token := 0x100

/-- The field `eom` of a token, bit 8 (`30_encoding.md` R65). -/
def Token.isEom (t : Token) : Bool := t.getLsbD 8

/-- The field `ch` of a token, bits 7:0 (`30_encoding.md` R65). -/
def Token.ch (t : Token) : Byte := t.setWidth 8

/-! ## The assembler's notation -/

/-- What a line stands for (`30_encoding.md` R78): commands, or one cycle of the reset pin. -/
def AsmLine.actions : AsmLine → List HostAction
  | .charCode c => [.command (.char c)]
  | .endMsg => [.command .endMsg]
  | .reset => [.reset]
  | .msg text => text.map (fun c => .command (.char c)) ++ [.command .endMsg]

/-- The command words a line assembles to; `RESET` is no command word (`30_encoding.md` R78). -/
def AsmLine.words (charW : Nat) : AsmLine → List Nat
  | .charCode c => [encode charW (.char c)]
  | .endMsg => [encode charW .endMsg]
  | .reset => []
  | .msg text => text.map (fun c => encode charW (.char c)) ++ [encode charW .endMsg]

/-- The double quote that delimits the text of `MSG`. -/
def asmQuote : Char := Char.ofNat 0x22

/-- The apostrophe that delimits the character of `CHAR 'x'`. -/
def asmApostrophe : Char := Char.ofNat 0x27

/-- The semicolon that starts a comment (`30_encoding.md` R78). -/
def asmComment : Char := Char.ofNat 0x3B

/-- A space or a tab (DESIGN CHOICE, log 16). -/
def asmBlank (c : Char) : Bool := c == Char.ofNat 0x20 || c == Char.ofNat 0x09

def skipBlanks : List Char → List Char
  | [] => []
  | c :: cs => if asmBlank c then skipBlanks cs else c :: cs

/-- Nothing but blanks and a comment is left of the line. -/
def atLineEnd (cs : List Char) : Bool :=
  match skipBlanks cs with
  | [] => true
  | c :: _ => c == asmComment

/-- What follows a keyword at the head of the text, if it stands there. -/
def afterKeyword : List Char → List Char → Option (List Char)
  | [], cs => some cs
  | _ :: _, [] => none
  | k :: ks, c :: cs => if k == c then afterKeyword ks cs else none

/-- The value of a hexadecimal digit, in either case (DESIGN CHOICE, log 16). -/
def hexValue (c : Char) : Option Nat :=
  let n := c.toNat
  if 0x30 ≤ n ∧ n ≤ 0x39 then some (n - 0x30)
  else if 0x41 ≤ n ∧ n ≤ 0x46 then some (n - 0x37)
  else if 0x61 ≤ n ∧ n ≤ 0x66 then some (n - 0x57)
  else none

/-- The hexadecimal digits at the head of the text, and the rest. -/
def takeHex : List Char → List Nat × List Char
  | [] => ([], [])
  | c :: cs =>
    match hexValue c with
    | some d => let r := takeHex cs; (d :: r.1, r.2)
    | none => ([], c :: cs)

/-- The operand of `CHAR`: `U+` and 1 to 6 hexadecimal digits, or a character between apostrophes
(`30_encoding.md` R78). -/
def charOperand : List Char → Option (Nat × List Char)
  | a :: b :: cs =>
    if a == 'U' && b == '+' then
      let ds := (takeHex cs).1
      if 1 ≤ ds.length ∧ ds.length ≤ 6 then some (ds.foldl (fun v d => 16 * v + d) 0, (takeHex cs).2) else none
    else if a == asmApostrophe then
      match cs with
      | q :: rest => if q == asmApostrophe then some (b.toNat, rest) else none
      | [] => none
    else none
  | _ => none

/-- The characters up to the next double quote, and what follows it (DESIGN CHOICE, log 16: no escape). -/
def takeQuoted : List Char → Option (List Nat × List Char)
  | [] => none
  | c :: cs =>
    if c == asmQuote then some ([], cs)
    else (takeQuoted cs).map fun r => (c.toNat :: r.1, r.2)

/-- The operand of `MSG`: a text between double quotes (`30_encoding.md` R78). -/
def msgOperand : List Char → Option (List Nat × List Char)
  | [] => none
  | c :: cs => if c == asmQuote then takeQuoted cs else none

/-- The line `l`, if nothing but blanks and a comment follows it. -/
def lineIfEnds (l : AsmLine) (rest : List Char) : Except AsmError (Option AsmLine) :=
  if atLineEnd rest then .ok (some l) else .error .trailingText

/-- One line of text (`30_encoding.md` R78); a line that is blank or all comment stands for nothing. -/
def parseLine (text : List Char) : Except AsmError (Option AsmLine) :=
  let cs := skipBlanks text
  if atLineEnd cs then .ok none
  else match afterKeyword ['C', 'H', 'A', 'R'] cs with
  | some rest =>
    match charOperand (skipBlanks rest) with
    | some (c, after) => lineIfEnds (.charCode c) after
    | none => .error .badOperand
  | none => match afterKeyword ['M', 'S', 'G'] cs with
  | some rest =>
    match msgOperand (skipBlanks rest) with
    | some (t, after) => lineIfEnds (.msg t) after
    | none => .error .badOperand
  | none => match afterKeyword ['E', 'N', 'D'] cs with
  | some rest => lineIfEnds .endMsg rest
  | none => match afterKeyword ['R', 'E', 'S', 'E', 'T'] cs with
  | some rest => lineIfEnds .reset rest
  | none => .error .unknownKeyword

/-- The actions of a program, one line of text per element, in order (`30_encoding.md` R78). -/
def assemble : List (List Char) → Except AsmError (List HostAction)
  | [] => .ok []
  | l :: ls =>
    match parseLine l, assemble ls with
    | .ok none, .ok acts => .ok acts
    | .ok (some a), .ok acts => .ok (a.actions ++ acts)
    | .error e, _ => .error e
    | .ok _, .error e => .error e

end Sys2Proof
end

