-- ==== Sys2Proof/Machine/Tables.lean ====
section
/-! DEFINITION. The default contents of the two tables and the default configuration (`30_encoding.md` R76, R77;
`00_scope.md` R4, R5). The spec supplies them from general knowledge (its decisions D11, D13); no meaning depends on
them, since every meaning reads the tables from its configuration. Log 2. -/

namespace Sys2Proof.Machine

/-- An index that encodes the character `c`: `valid = 1` (`20_memory.md` R41). -/
def entry (c : Nat) : TableEntry := ⟨true, c⟩

/-- An index assigned to no character: `valid = 0` (`20_memory.md` R41). Its `char` field is 0: DESIGN CHOICE, log 22,
unsafe. R41 leaves the field open ("whatever its `char` field holds") and R76 and R77 give only `valid = 0`. `find` never
matches the entry, so the field reaches no output; `memRead` and the checking function `lookupSeptets` return it. -/
def vacant : TableEntry := ⟨false, 0⟩

def primaryRow0 : List TableEntry :=
  [entry 0x0040, entry 0x00A3, entry 0x0024, entry 0x00A5, entry 0x00E8, entry 0x00E9, entry 0x00F9, entry 0x00EC]

def primaryRow1 : List TableEntry :=
  [entry 0x00F2, entry 0x00C7, entry 0x000A, entry 0x00D8, entry 0x00F8, entry 0x000D, entry 0x00C5, entry 0x00E5]

def primaryRow2 : List TableEntry :=
  [entry 0x0394, entry 0x005F, entry 0x03A6, entry 0x0393, entry 0x039B, entry 0x03A9, entry 0x03A0, entry 0x03A8]

def primaryRow3 : List TableEntry :=
  [entry 0x03A3, entry 0x0398, entry 0x039E, vacant, entry 0x00C6, entry 0x00E6, entry 0x00DF, entry 0x00C9]

def primaryRow4 : List TableEntry :=
  [entry 0x0020, entry 0x0021, entry 0x0022, entry 0x0023, entry 0x00A4, entry 0x0025, entry 0x0026, entry 0x0027]

def primaryRow5 : List TableEntry :=
  [entry 0x0028, entry 0x0029, entry 0x002A, entry 0x002B, entry 0x002C, entry 0x002D, entry 0x002E, entry 0x002F]

def primaryRow6 : List TableEntry :=
  [entry 0x0030, entry 0x0031, entry 0x0032, entry 0x0033, entry 0x0034, entry 0x0035, entry 0x0036, entry 0x0037]

def primaryRow7 : List TableEntry :=
  [entry 0x0038, entry 0x0039, entry 0x003A, entry 0x003B, entry 0x003C, entry 0x003D, entry 0x003E, entry 0x003F]

def primaryRow8 : List TableEntry :=
  [entry 0x00A1, entry 0x0041, entry 0x0042, entry 0x0043, entry 0x0044, entry 0x0045, entry 0x0046, entry 0x0047]

def primaryRow9 : List TableEntry :=
  [entry 0x0048, entry 0x0049, entry 0x004A, entry 0x004B, entry 0x004C, entry 0x004D, entry 0x004E, entry 0x004F]

def primaryRow10 : List TableEntry :=
  [entry 0x0050, entry 0x0051, entry 0x0052, entry 0x0053, entry 0x0054, entry 0x0055, entry 0x0056, entry 0x0057]

def primaryRow11 : List TableEntry :=
  [entry 0x0058, entry 0x0059, entry 0x005A, entry 0x00C4, entry 0x00D6, entry 0x00D1, entry 0x00DC, entry 0x00A7]

def primaryRow12 : List TableEntry :=
  [entry 0x00BF, entry 0x0061, entry 0x0062, entry 0x0063, entry 0x0064, entry 0x0065, entry 0x0066, entry 0x0067]

def primaryRow13 : List TableEntry :=
  [entry 0x0068, entry 0x0069, entry 0x006A, entry 0x006B, entry 0x006C, entry 0x006D, entry 0x006E, entry 0x006F]

def primaryRow14 : List TableEntry :=
  [entry 0x0070, entry 0x0071, entry 0x0072, entry 0x0073, entry 0x0074, entry 0x0075, entry 0x0076, entry 0x0077]

def primaryRow15 : List TableEntry :=
  [entry 0x0078, entry 0x0079, entry 0x007A, entry 0x00E4, entry 0x00F6, entry 0x00F1, entry 0x00FC, entry 0x00E0]

/-- The 128 entries of the default `PRIMARY` (`30_encoding.md` R76), eight to a row, in index order. -/
def primaryEntries : List TableEntry :=
  primaryRow0 ++ primaryRow1 ++ primaryRow2 ++ primaryRow3 ++ primaryRow4 ++ primaryRow5 ++ primaryRow6 ++ primaryRow7
    ++ primaryRow8 ++ primaryRow9 ++ primaryRow10 ++ primaryRow11 ++ primaryRow12 ++ primaryRow13 ++ primaryRow14
    ++ primaryRow15

/-- The ten characters of the default `EXT` with their indexes (`30_encoding.md` R77). -/
def extPairs : List (Nat × Nat) :=
  [(0x0A, 0x000C), (0x14, 0x005E), (0x28, 0x007B), (0x29, 0x007D), (0x2F, 0x005C), (0x3C, 0x005B), (0x3D, 0x007E),
   (0x3E, 0x005D), (0x40, 0x007C), (0x65, 0x20AC)]

/-- The 128 entries of the default `EXT`: the ten of `extPairs`, the other 118 `valid = 0` (`30_encoding.md` R77). -/
def extEntries : List TableEntry :=
  (List.range 128).map fun i =>
    match extPairs.lookup i with
    | some c => entry c
    | none => vacant

def defaultPrimary : Table := ⟨primaryEntries.toArray, rfl⟩

def defaultExt : Table := ⟨extEntries.toArray, rfl⟩

/-- The default configuration: `CHAR_W = 21`, `OQ_DEPTH = 4`, the default tables, carriage return U+000D
(`00_scope.md` R4, `30_encoding.md` R75 to R77). -/
def defaultConfig : Config :=
  ⟨defaultCharW, defaultOqDepth, defaultPrimary, defaultExt, 0x000D⟩

end Sys2Proof.Machine
end

