-- ==== Sys2Proof/Machine/State.lean ====
section
/-! DEFINITION. The state of the machine as plain data: the block's own state (`10_state.md` R20), the histories the
spec states its claims over (R30), the streams and pins the host drives (`20_memory.md` R40, R55) and, beside them, the
configuration the block was built with (log 1). -/

namespace Sys2Proof.Machine

/-- What the host drives on the one-bit input pins in one clock cycle (`20_memory.md` R55). `in_cmd` is the head of the
command stream. -/
structure HostCycle where
  rst      : Bool
  inValid  : Bool
  outReady : Bool
deriving DecidableEq, Repr

/-- No pin is driven: no reset, no command offered, no token taken. -/
def HostCycle.idle : HostCycle := ⟨false, false, false⟩

structure State where
  /-- The configuration, fixed when the block is built: no step changes it (`00_scope.md` R6; log 1). -/
  cfg : Config
  /-- The number of pending bits (`10_state.md` R21). -/
  np : BitVec 3
  /-- The pending bits, right-aligned (`10_state.md` R22). -/
  acc : BitVec 7
  /-- The output queue, oldest token first (`10_state.md` R29). -/
  oq : List Token
  /-- The output trace: every token emitted (`10_state.md` R30). -/
  out : List Token
  /-- The tokens delivered to the host, oldest first (`10_state.md` R30; the model's own field, log 7). -/
  received : List Token
  /-- The command stream: the words the host has still to have accepted, the next one first (`20_memory.md` R40). -/
  cmdStream : List Nat
  /-- The host's pins in the coming clock cycles, the next one first (the model's own field, log 5). -/
  cycles : List HostCycle
deriving DecidableEq, Repr

/-- Nothing stops the block: "it has no fault outcome and no refusal" (`60_exceptions.md` R160), so no reason exists and
the type has no constructor. -/
inductive Fault where
deriving DecidableEq, Repr

/-- Raised by no meaning of this model (`60_exceptions.md` R160). -/
inductive Refusal where
  /-- An arm of `exec` whose instruction has no meaning yet; no arm is one. Safe: the machine stops. -/
  | notModelled (mnemonic : String)
deriving DecidableEq, Repr

/-- The machine right after reset: `np = 0`, `acc = 0`, `oq` empty (`10_state.md` R31), the default configuration
(`00_scope.md` R4, R5; log 2), and no history and nothing yet presented by the host (DESIGN CHOICE, log 8). -/
def State.reset : State :=
  { cfg := defaultConfig, np := 0, acc := 0, oq := [], out := [], received := [], cmdStream := [], cycles := [] }

end Sys2Proof.Machine
end

