-- ==== Sys2Proof/Machine/Flags.lean ====
section
/-! DEFINITION. The block's output signals. It has no status flag, condition code or predicate (`10_state.md` R26), so
no meaning computes a flag; what the host sees of the state is `in_ready`, `out_valid` and `out_tok` (`20_memory.md`
R55). -/

namespace Sys2Proof.Machine

/-- `in_ready`: `oq` has at least four free places, `OQ_DEPTH - len(oq) >= 4` (`40_commands.md` R95). -/
def State.inReady (s : State) : Bool := decide (s.oq.length + 4 ≤ s.cfg.oqDepth)

/-- `out_valid`: `oq` is not empty (`20_memory.md` R55). -/
def State.outValid (s : State) : Bool := !s.oq.isEmpty

/-- `out_tok`: the head of `oq`, offered while `out_valid` is 1 (`20_memory.md` R55). -/
def State.outTok (s : State) : Option Token := s.oq.head?

end Sys2Proof.Machine
end

