-- ==== Sys2Proof/Machine/Hex.lean ====
section
/-! DEFINITION. Stage 3, the hex renderer (`43_hex.md`). It holds no state. -/

namespace Sys2Proof.Machine

/-- `b[7:4]`, rendered first (`20_memory.md` R47). -/
def highNibble (b : Byte) : Nibble := b.extractLsb' 4 4

/-- `b[3:0]`, rendered second (`20_memory.md` R47). -/
def lowNibble (b : Byte) : Nibble := b.extractLsb' 0 4

/-- `Digit(n)`: the character code of a hexadecimal digit, letters uppercase (`43_hex.md` R151). -/
def digit (n : Nibble) : Byte := if n.toNat ≤ 9 then 0x30 + n.setWidth 8 else 0x37 + n.setWidth 8

/-- `HexStr(B)`: two character codes per byte, in byte order (`43_hex.md` R152). -/
def hexStr (bs : List Byte) : List Byte := bs.flatMap fun b => [digit (highNibble b), digit (lowNibble b)]

/-- The nibble whose digit has the code `c`, for the sixteen codes of `30_encoding.md` R73. A checking function, no part
of the block; on other codes, which the renderer never gives, its value means nothing (DESIGN CHOICE, log 23, safe). -/
def digitValue (c : Byte) : Nibble := if c.toNat ≤ 0x39 then (c - 0x30).setWidth 4 else (c - 0x37).setWidth 4

/-- The bytes read from a hex string two characters at a time, high nibble first (`43_hex.md` R154, `20_memory.md` R47).
A checking function, no part of the block; a last character alone makes no byte (DESIGN CHOICE, log 23, safe). -/
def readHex : List Byte → List Byte
  | h :: l :: rest => (digitValue h ++ digitValue l) :: readHex rest
  | _ => []

/-- The tokens `Hex(b)` emits: high nibble first (`43_hex.md` R150). -/
def hexTokens (b : Byte) : List Token := [hexToken (digit (highNibble b)), hexToken (digit (lowNibble b))]

/-- The sixteen character codes of the digits, in order (`30_encoding.md` R73). -/
def digitCodes : List Byte :=
  [0x30, 0x31, 0x32, 0x33, 0x34, 0x35, 0x36, 0x37, 0x38, 0x39, 0x41, 0x42, 0x43, 0x44, 0x45, 0x46]

end Sys2Proof.Machine
end

