-- ==== Sys2Proof/Machine/Operands.lean ====
section
/-! DEFINITION. Operand assembly: the table read, the content search and the character mapping (`20_memory.md` R42, R43,
`41_map.md`). Combinational: they read the tables and their operand, and touch no state (`41_map.md` R113). -/

namespace Sys2Proof.Machine

/-- `MemRead(T, i)`: entry `i` of the table (`20_memory.md` R42). -/
def memRead (t : Table) (i : Septet) : TableEntry := t[i.toNat]'i.isLt

/-- `Find(T, c)`: the least index whose entry is `(1, c)`, or none (`20_memory.md` R43). -/
def find (t : Table) (c : Nat) : Option Septet :=
  (t.toList.findIdx? fun e => decide (e = TableEntry.mk true c)).map (BitVec.ofNat 7)

/-- `Map(c)`: the primary index, or the escape and the extension index, or nothing (`41_map.md` R113). -/
def mapChar (k : Config) (c : Nat) : List Septet :=
  match find k.primary c with
  | some i => [i]
  | none =>
    match find k.ext c with
    | some j => [esc, j]
    | none => []

/-- `MapAll(text)` (`41_map.md` R115). -/
def mapAll (k : Config) (text : List Nat) : List Septet := text.flatMap (mapChar k)

end Sys2Proof.Machine
end

