-- ==== Sys2Proof/Machine/Pack.lean ====
section
/-! DEFINITION. Stage 2 as functions of the registers (`42_pack.md` R130 to R134), and the packing of a whole septet
sequence by its bit stream (R137). -/

namespace Sys2Proof.Machine

/-- The byte `Pack(s)` returns: none when `np = 0` (`42_pack.md` R130); otherwise, with `p = np`,
`(acc << (8 - p)) | (s >> (p - 1))`, 8 bits (R131). -/
def packByte (np : BitVec 3) (acc s : Septet) : Option Byte :=
  if np = 0 then none
  else some ((acc.setWidth 8 <<< (8 - np.toNat)) ||| (s.setWidth 8 >>> (np.toNat - 1)))

/-- `acc` after `Pack(s)`: `s` when `np = 0` (`42_pack.md` R130), else `s & (2^(p - 1) - 1)` (R131). -/
def packAcc (np : BitVec 3) (s : Septet) : Septet :=
  if np = 0 then s else s &&& BitVec.ofNat 7 (2 ^ (np.toNat - 1) - 1)

/-- `np` after `Pack(s)`: 7 when `np = 0` (`42_pack.md` R130), else `p - 1` (R131). -/
def packNp (np : BitVec 3) : BitVec 3 := if np = 0 then 7 else np - 1

/-- The byte `Flush()` returns: none when `np = 0` (`42_pack.md` R132), the data bit and the filler `PAD7` when
`np = 1` (R133), the data bits and zeros when `np >= 2` (R134). -/
def flushByte (np : BitVec 3) (acc : Septet) : Option Byte :=
  if np = 0 then none
  else if np = 1 then some ((acc.setWidth 8 <<< 7) ||| pad7)
  else some (acc.setWidth 8 <<< (8 - np.toNat))

/-- The bytes returned by `Pack` on each septet in turn, and the registers after the last. -/
def packRun (np : BitVec 3) (acc : Septet) : List Septet → List Byte × BitVec 3 × Septet
  | [] => ([], np, acc)
  | s :: ss =>
    let r := packRun (packNp np) (packAcc np s) ss
    ((packByte np acc s).toList ++ r.1, r.2)

/-! ## The whole sequence, without state -/

/-- The bits of a septet, most significant first (`20_memory.md` R44). -/
def septetBits (s : Septet) : List Bool :=
  [s.getLsbD 6, s.getLsbD 5, s.getLsbD 4, s.getLsbD 3, s.getLsbD 2, s.getLsbD 1, s.getLsbD 0]

/-- The bits of a byte, most significant first (`20_memory.md` R45). -/
def byteBits (b : Byte) : List Bool :=
  [b.getLsbD 7, b.getLsbD 6, b.getLsbD 5, b.getLsbD 4, b.getLsbD 3, b.getLsbD 2, b.getLsbD 1, b.getLsbD 0]

/-- The bit stream of a septet sequence (`00_scope.md` R9). -/
def bitStream (ss : List Septet) : List Bool := ss.flatMap septetBits

/-- The value of a bit sequence, first bit most significant. -/
def bitsValue (bs : List Bool) : Nat := bs.foldl (fun v b => 2 * v + b.toNat) 0

/-- The filler of a message of `n` septets, by its leftover count `r = 7n mod 8` (`42_pack.md` R137). -/
def fillBits (n : Nat) : List Bool :=
  if 7 * n % 8 = 0 then []
  else if 7 * n % 8 = 1 then [false, false, false, true, true, false, true]
  else List.replicate (8 - 7 * n % 8) false

/-- A bit sequence cut into bytes, eight bits each, first bit in bit 7 (`20_memory.md` R45); bits short of a byte at
the end make none. -/
def bytesOfBits : List Bool → List Byte
  | b7 :: b6 :: b5 :: b4 :: b3 :: b2 :: b1 :: b0 :: rest =>
    BitVec.ofNat 8 (bitsValue [b7, b6, b5, b4, b3, b2, b1, b0]) :: bytesOfBits rest
  | _ => []

/-- `PackAll(S)` (`42_pack.md` R137). -/
def packAll (ss : List Septet) : List Byte := bytesOfBits (bitStream ss ++ fillBits ss.length)

/-- The pending bits `acc[np-1:0]`, oldest first (`10_state.md` R22). -/
def pendingBits (np : BitVec 3) (acc : Septet) : List Bool := (septetBits acc).drop (7 - np.toNat)

end Sys2Proof.Machine
end

