-- ==== Sys2Proof/Machine/Ops.lean ====
section
/-! DEFINITION. The shared operations on the state: `Emit`, `Pack`, `Flush`, `POP`, the reset pin, and the two transfers
of a clock cycle. There is no exception to take and none to return from (`60_exceptions.md` R160, R164, R165): reset is
the only event that abandons what is under way. -/

namespace Sys2Proof.Machine

/-- `Emit(t)`: append to `out` and to `oq` (`10_state.md` R29, R30). -/
def State.emit (s : State) (t : Token) : State := { s with oq := s.oq ++ [t], out := s.out ++ [t] }

/-- `Hex(b)`, if there is a byte: two tokens, high nibble first (`43_hex.md` R150). -/
def State.emitByte (s : State) : Option Byte → State
  | none => s
  | some b => (s.emit (hexToken (digit (highNibble b)))).emit (hexToken (digit (lowNibble b)))

/-- `Pack(x)` on the registers (`42_pack.md` R130, R131). All values are read at the start (`00_scope.md` R10). -/
def State.pack (s : State) (x : Septet) : Option Byte × State :=
  (packByte s.np s.acc x, { s with np := packNp s.np, acc := packAcc s.np x })

/-- `Flush()` on the registers: the final byte, then `np = 0` and `acc = 0` (`42_pack.md` R132 to R134). -/
def State.flush (s : State) : Option Byte × State :=
  (flushByte s.np s.acc, { s with np := 0, acc := 0 })

/-- One turn of `CHAR`'s loop: `b <- Pack(x)`, then `Hex(b)` if `b` is a byte (`40_commands.md` R90). -/
def State.packEmit (s : State) (x : Septet) : State := (s.pack x).2.emitByte (s.pack x).1

/-- `POP`: the head of `oq` goes to the host (`40_commands.md` R96). Not enabled, and no effect, when `oq` is empty. -/
def State.pop (s : State) : State :=
  match s.oq with
  | [] => s
  | t :: ts => { s with oq := ts, received := s.received ++ [t] }

/-- The reset pin: `np <- 0`, `acc <- 0`, `oq <- empty` (`70_reset_and_hazards.md` R180). `out` is history and stays
(`10_state.md` R30), as do the tokens taken (`70_reset_and_hazards.md` R181) and the commands not yet transferred. -/
def State.resetPin (s : State) : State := { s with np := 0, acc := 0, oq := [] }

/-! ## A clock cycle's parts -/

/-- The pins in the coming cycle; after the last cycle listed the host drives nothing (DESIGN CHOICE, log 5). -/
def State.pins (s : State) : HostCycle := s.cycles.headD HostCycle.idle

/-- The clock advances past one listed cycle. -/
def State.tick (s : State) : State := { s with cycles := s.cycles.tail }

/-- The command transferred in a cycle with `rst = 0`: the one on the port, if `in_valid` and `in_ready` are both 1
(`20_memory.md` R55). With nothing left in the command stream `in_valid` is 0. -/
def State.accepted (s : State) (p : HostCycle) : Option Instr :=
  if p.inValid && s.inReady then s.cmdStream.head?.map (decodeCmd s.cfg.charW) else none

/-- The block consumes the head of the command stream, exactly once (`20_memory.md` R55). -/
def State.consumeCommand (s : State) : State := { s with cmdStream := s.cmdStream.tail }

/-- The output transfer of a cycle with `rst = 0`: `POP` if `out_valid` and `out_ready` are both 1
(`20_memory.md` R55). -/
def State.outputTransfer (s : State) (p : HostCycle) : State := if p.outReady && s.outValid then s.pop else s

/-! ## Presenting a command to the port -/

/-- The host takes the oldest tokens of `oq`, as many as it must for four places to be free (`40_commands.md` R95,
R96). -/
def State.makeRoom (s : State) : State :=
  { s with
    oq := s.oq.drop (s.oq.length + 4 - s.cfg.oqDepth)
    received := s.received ++ s.oq.take (s.oq.length + 4 - s.cfg.oqDepth) }

/-- The word stands on the input port, `in_valid` is 1 in the coming cycle, and the block is ready for it (log 10). -/
def State.presentWord (s : State) (w : Nat) : State :=
  { s.makeRoom with cmdStream := w :: s.cmdStream, cycles := ⟨false, true, false⟩ :: s.cycles }

end Sys2Proof.Machine
end

