-- ==== Sys2Proof/Machine/Commands.lean ====
section
/-! DEFINITION. The meanings of the two commands: what each does at its input transfer, as one atomic transition
(`20_memory.md` R50). Whether a command is accepted is the cycle's business (`Machine/Cycle.lean`; log 11). -/

namespace Sys2Proof.Machine

/-- `CHAR c` (`40_commands.md` R90): pack each septet of `Map(c)` in order, rendering each byte completed. -/
def execChar (c : Nat) (s : State) : Host.Outcome State Fault Refusal :=
  .next ((mapChar s.cfg c).foldl State.packEmit s)

/-- `END` (`40_commands.md` R91): the final byte, if there is one, then `EOM`. -/
def execEnd (s : State) : Host.Outcome State Fault Refusal :=
  .next ((s.flush.2.emitByte s.flush.1).emit eomToken)

end Sys2Proof.Machine
end

