-- ==== Sys2Proof/Machine/Dispatch.lean ====
section
/-! DEFINITION. The dispatch from commands to their meanings, one arm per constructor. -/

namespace Sys2Proof.Machine

def exec (i : Instr) (s : State) : Host.Outcome State Fault Refusal :=
  match i with
  | .char c => Sys2Proof.Machine.execChar c s
  | .endMsg => Sys2Proof.Machine.execEnd s

end Sys2Proof.Machine
end

