-- ==== Sys2Proof/Machine/Cycle.lean ====
section
/-! DEFINITION. One clock cycle of the block (`20_memory.md` R55, `60_exceptions.md` R163). -/

namespace Sys2Proof.Machine

/-- One clock cycle. Reset wins over both transfers. Otherwise the output transfer comes first and then the command, and
whether the command is accepted is decided from `oq` as it stood at the start of the cycle (`60_exceptions.md` R163).
With no transfer the block keeps its state (`60_exceptions.md` R172). -/
def clockCycle (s : State) : Host.Outcome State Fault Refusal :=
  if s.pins.rst then .next s.tick.resetPin
  else
    match s.accepted s.pins with
    | none => .next (s.tick.outputTransfer s.pins)
    | some i => exec i (s.tick.outputTransfer s.pins).consumeCommand

end Sys2Proof.Machine
end

