-- ==== Sys2Proof/Machine/Step.lean ====
section
/-! DEFINITION. The machine's step, one clock cycle, and where it takes its next command from. -/

namespace Sys2Proof.Machine

def step (s : State) : Host.Outcome State Fault Refusal := clockCycle s

/-- `s` with the opcode-table word `w` on the input port and the port ready for it, so that the next step accepts and
executes it (log 10). -/
def State.withFetchWord (s : State) (nbits w : Nat) : State := s.presentWord (w % 2 ^ nbits)

end Sys2Proof.Machine
end

