-- ==== Sys2Proof/Machine/Message.lean ====
section
/-! DEFINITION. Whole messages: sequences of commands and of the host's transitions, the function the block realises
(`40_commands.md` R92, R98), and the checking functions of `95_test_vectors.md` section 5. -/

namespace Sys2Proof.Machine

/-- The commands in order, each exactly once (`20_memory.md` R50), stopping at the first that gives no next state. -/
def runCommands : List Instr → State → Host.Outcome State Fault Refusal
  | [], s => .next s
  | i :: is, s =>
    match exec i s with
    | .next t => runCommands is t
    | .fault r => .fault r
    | .refused r => .refused r

/-- Clock cycles in order. -/
def runSteps : Nat → State → Host.Outcome State Fault Refusal
  | 0, s => .next s
  | k + 1, s =>
    match step s with
    | .next t => runSteps k t
    | .fault r => .fault r
    | .refused r => .refused r

/-- One transition: an accepted command, the host's `POP`, or a cycle of reset. -/
def act (a : HostAction) (s : State) : Host.Outcome State Fault Refusal :=
  match a with
  | .command i => exec i s
  | .pop => .next s.pop
  | .reset => .next s.resetPin

/-- Transitions in order. -/
def runActions : List HostAction → State → Host.Outcome State Fault Refusal
  | [], s => .next s
  | a :: as, s =>
    match act a s with
    | .next t => runActions as t
    | .fault r => .fault r
    | .refused r => .refused r

/-- The commands among the transitions, in order. -/
def commandsOf (as : List HostAction) : List Instr :=
  as.filterMap fun a => match a with | .command i => some i | .pop => none | .reset => none

/-- `MSG "text"` (`40_commands.md` R98). -/
def msgCommands (text : List Nat) : List Instr := text.map Instr.char ++ [.endMsg]

/-- The command words of `MSG "text"` (`30_encoding.md` R78). -/
def msgWords (charW : Nat) (text : List Nat) : List Nat := (msgCommands text).map (encode charW)

/-- `Encode(text)`: the source's `encode`, as character codes (`40_commands.md` R92). -/
def encodeText (k : Config) (text : List Nat) : List Byte := hexStr (packAll (mapAll k text))

/-- The tokens of a whole message: the digits of `Encode(text)`, then `EOM` (`40_commands.md` R92). -/
def messageTokens (k : Config) (text : List Nat) : List Token :=
  (encodeText k text).map hexToken ++ [eomToken]

/-- The character stands in neither table, so it is dropped (`41_map.md` R112). -/
def isDropped (k : Config) (c : Nat) : Bool := (find k.primary c).isNone && (find k.ext c).isNone

/-- The character is encoded from the extension table (`41_map.md` R111). -/
def isExtension (k : Config) (c : Nat) : Bool := (find k.primary c).isNone && (find k.ext c).isSome

/-! ## Checking functions, no part of the block (D26) -/

/-- A bit sequence cut into septets, most significant bit first; bits short of a septet are discarded. -/
def septetsOfBits : List Bool → List Septet
  | b6 :: b5 :: b4 :: b3 :: b2 :: b1 :: b0 :: rest =>
    BitVec.ofNat 7 (bitsValue [b6, b5, b4, b3, b2, b1, b0]) :: septetsOfBits rest
  | _ => []

/-- `Unpack(B)`: `floor(8m / 7)` septets (`95_test_vectors.md` section 5). -/
def unpack (bs : List Byte) : List Septet := septetsOfBits (bs.flatMap byteBits)

/-- The lookup: a septet 27 followed by `j` reads `EXT[j]`, any other septet `i` reads `PRIMARY[i]`
(`95_test_vectors.md` section 5). An escape with nothing after it reads nothing (DESIGN CHOICE, log 20). -/
def lookupSeptets (k : Config) : List Septet → List TableEntry
  | [] => []
  | [s] => if s = esc then [] else [memRead k.primary s]
  | s :: j :: rest =>
    if s = esc then memRead k.ext j :: lookupSeptets k rest
    else memRead k.primary s :: lookupSeptets k (j :: rest)

end Sys2Proof.Machine
end

