-- ==== Sys2Proof/Safety.lean ====
section
/-! DEFINITION. What counts as a sound state of the machine, in the terms the statements use. -/

namespace Sys2Proof.Machine

/-- `acc < 2^np` (`10_state.md` R22). -/
abbrev State.accFits (s : State) : Prop := s.acc.toNat < 2 ^ s.np.toNat

/-- `oq` holds at most `OQ_DEPTH` tokens (`10_state.md` R20, R29). -/
abbrev State.queueFits (s : State) : Prop := s.oq.length ≤ s.cfg.oqDepth

/-- A token the block may emit: `EOM`, or `HEX(d)` with `d` one of the sixteen digit codes (`30_encoding.md` R66,
R67). -/
abbrev legalToken (t : Token) : Prop := t = eomToken ∨ ∃ d ∈ digitCodes, t = hexToken d

/-- Only legal tokens have been emitted. -/
abbrev State.traceLegal (s : State) : Prop := ∀ t ∈ s.out, legalToken t

/-- What the host has received and what is still queued are emitted tokens, in emission order, each at most once
(`20_memory.md` R50, `10_state.md` R30; after a reset that discards tokens, log 9). -/
abbrev State.traceOrdered (s : State) : Prop := (s.received ++ s.oq).Sublist s.out

/-- The invariant every step keeps. -/
structure State.Inv (s : State) : Prop where
  accFits : s.accFits
  queueFits : s.queueFits
  traceLegal : s.traceLegal
  traceOrdered : s.traceOrdered

/-- Every token emitted has been received or is still queued, in order (`10_state.md` R30). It holds as long as no reset
has discarded a token (log 9). -/
abbrev State.traceWhole (s : State) : Prop := s.received ++ s.oq = s.out

end Sys2Proof.Machine
end

