-- ==== Sys2Proof/Certificates/Slice0/Obligations.lean ====
section
/-! DEFINITION. The statements for the provers, each after the rule of the spec it formalises. A statement ranges over
every state, and with it over every configuration (`00_scope.md` R4, R5), unless its text says otherwise. -/

open Sys2Proof Sys2Proof.Machine

/-! ## Encoding -/

/-- O1. Words written out bit by bit from the patterns of `30_encoding.md` R61 and R62 (`CHAR U+0041`, `CHAR U+20AC`,
the largest operand, the canonical `END`, an `END` with every ignored bit 1), at `CHAR_W = 21`. -/
def Obligations.SpecWordsDecodeAsWritten : Prop :=
  decodeWord 21 0b0000000000000001000001 = .ok (.char 0x41) ∧
  decodeWord 21 0b0000000010000010101100 = .ok (.char 0x20AC) ∧
  decodeWord 21 0b0111111111111111111111 = .ok (.char 0x1FFFFF) ∧
  decodeWord 21 0b1000000000000000000000 = .ok .endMsg ∧
  decodeWord 21 0b1111111111111111111111 = .ok .endMsg

/-- O2. Decoding the word of a well-formed command gives the command back, at every `CHAR_W`. -/
def Obligations.DecodeOfEncodeIsIdentity : Prop :=
  ∀ (charW : Nat) (i : Instr), i.wf charW = true → decodeWord charW (encode charW i) = .ok i

/-- O3. R60 to R63: every word of `1 + CHAR_W` bits has exactly one meaning, chosen by bit `CHAR_W`; at `CHAR_W = 21`
the match and mask of the patterns select it; a `CHAR` whose operand stands in neither table is dropped, not illegal. -/
def Obligations.EveryCommandWordHasOneMeaning : Prop :=
  (∀ charW w : Nat, w < 2 ^ (charW + 1) →
    (w.testBit charW = false → decodeWord charW w = .ok (.char (w % 2 ^ charW))) ∧
    (w.testBit charW = true → decodeWord charW w = .ok .endMsg)) ∧
  (∀ w : Nat, w < 2 ^ 22 →
    (w &&& 0x200000 = 0x000000 ↔ decodeWord 21 w = .ok (.char (w &&& 0x1FFFFF))) ∧
    (w &&& 0x200000 = 0x200000 ↔ decodeWord 21 w = .ok .endMsg)) ∧
  encode 21 .endMsg = 0x200000 ∧
  (∀ (c : Nat) (s : State), (∀ i, memRead s.cfg.primary i ≠ ⟨true, c⟩) → (∀ j, memRead s.cfg.ext j ≠ ⟨true, c⟩) →
    exec (.char c) s = .next s)

/-- O4. A number wider than the port's `1 + CHAR_W` wires is no command word and is rejected by name (the model's
choice, log 4). -/
def Obligations.WiderWordIsRejected : Prop :=
  ∀ charW w : Nat, 2 ^ (charW + 1) ≤ w → decodeWord charW w = .error .widerThanPort

/-- O5. R65, R66, R67: the fields of the tokens. -/
def Obligations.TokenFieldsAsEncoded : Prop :=
  (∀ d : Byte, (hexToken d).isEom = false ∧ (hexToken d).ch = d) ∧
  eomToken = 0x100 ∧ Token.isEom eomToken = true ∧ Token.ch eomToken = 0

/-- O6. R78, R98: the words a line assembles to at `CHAR_W = 21`; that running `MSG` is running its commands; and that
the words of a well-formed line are those of its commands, at any `CHAR_W`. -/
def Obligations.AssemblerLinesAsWritten : Prop :=
  (∀ c : Nat, (AsmLine.charCode c).words 21 = [c]) ∧
  AsmLine.endMsg.words 21 = [0x200000] ∧
  AsmLine.reset.words 21 = [] ∧ AsmLine.reset.actions = [.reset] ∧
  (∀ text : List Nat, (AsmLine.msg text).words 21 = text ++ [0x200000]) ∧
  (∀ (text : List Nat) (s : State), runActions (AsmLine.msg text).actions s = runCommands (msgCommands text) s) ∧
  (∀ (charW : Nat) (l : AsmLine), l.wf charW = true →
    (l.words charW).map (decodeCmd charW) = commandsOf l.actions)

/-! ## Tables and mapping -/

/-- O7. R43: `Find` returns the least index whose entry is `(1, c)`, or none if there is none. -/
def Obligations.FindGivesLeastIndex : Prop :=
  ∀ (t : Table) (c : Nat),
    (∀ i : Septet, find t c = some i ↔
      memRead t i = ⟨true, c⟩ ∧ ∀ j : Septet, j.toNat < i.toNat → memRead t j ≠ ⟨true, c⟩) ∧
    (find t c = none ↔ ∀ i : Septet, memRead t i ≠ ⟨true, c⟩)

/-- O8. R6: the tables, and the rest of the configuration, are changed by no command, no clock cycle (transfers and
reset among them) and no host transition. -/
def Obligations.ConfigurationNeverChanges : Prop :=
  (∀ (i : Instr) (s t : State), exec i s = .next t → t.cfg = s.cfg) ∧
  (∀ s t : State, step s = .next t → t.cfg = s.cfg) ∧
  (∀ (a : HostAction) (s t : State), act a s = .next t → t.cfg = s.cfg)

/-- O9. R75, R77 and the remarks after them: carriage return at 13; the default configuration is one the spec allows;
the default `EXT` has exactly the ten characters listed; only index 27 of the default `PRIMARY` is empty; no character
stands twice in a default table or in both. The default contents are PRESUMED (log 2): the spec supplies them from
general knowledge. O52 lists those of `PRIMARY`. -/
def Obligations.DefaultExtAsListedAndNoDuplicates : Prop :=
  (∀ k : Config, k.wf = true → memRead k.primary 13 = ⟨true, k.carriageReturn⟩) ∧
  defaultConfig.wf = true ∧ defaultConfig.carriageReturn = 0x000D ∧
  memRead defaultExt 0x0A = ⟨true, 0x000C⟩ ∧ memRead defaultExt 0x14 = ⟨true, 0x005E⟩ ∧
  memRead defaultExt 0x28 = ⟨true, 0x007B⟩ ∧ memRead defaultExt 0x29 = ⟨true, 0x007D⟩ ∧
  memRead defaultExt 0x2F = ⟨true, 0x005C⟩ ∧ memRead defaultExt 0x3C = ⟨true, 0x005B⟩ ∧
  memRead defaultExt 0x3D = ⟨true, 0x007E⟩ ∧ memRead defaultExt 0x3E = ⟨true, 0x005D⟩ ∧
  memRead defaultExt 0x40 = ⟨true, 0x007C⟩ ∧ memRead defaultExt 0x65 = ⟨true, 0x20AC⟩ ∧
  (∀ i : Septet, (memRead defaultExt i).valid = true →
    i ∈ ([0x0A, 0x14, 0x28, 0x29, 0x2F, 0x3C, 0x3D, 0x3E, 0x40, 0x65] : List Septet)) ∧
  (∀ i : Septet, (memRead defaultPrimary i).valid = false ↔ i = 27) ∧
  (∀ i j : Septet, (memRead defaultPrimary i).valid = true → memRead defaultPrimary i = memRead defaultPrimary j →
    i = j) ∧
  (∀ i j : Septet, (memRead defaultExt i).valid = true → memRead defaultExt i = memRead defaultExt j → i = j) ∧
  (∀ i j : Septet, (memRead defaultExt j).valid = true → memRead defaultPrimary i ≠ memRead defaultExt j)

/-- O10. R110, R111, R113, R116: the three cases of `Map` in terms of what stands in the tables, tried in order. -/
def Obligations.MapTakesPrimaryThenExtensionThenDrops : Prop :=
  ∀ (k : Config) (c : Nat),
    ((∃ i, memRead k.primary i = ⟨true, c⟩) →
      ∃ i, mapChar k c = [i] ∧ memRead k.primary i = ⟨true, c⟩ ∧
        ∀ j : Septet, j.toNat < i.toNat → memRead k.primary j ≠ ⟨true, c⟩) ∧
    ((∀ i, memRead k.primary i ≠ ⟨true, c⟩) → (∃ j, memRead k.ext j = ⟨true, c⟩) →
      ∃ j, mapChar k c = [27, j] ∧ memRead k.ext j = ⟨true, c⟩ ∧
        ∀ l : Septet, l.toNat < j.toNat → memRead k.ext l ≠ ⟨true, c⟩) ∧
    ((∀ i, memRead k.primary i ≠ ⟨true, c⟩) → (∀ j, memRead k.ext j ≠ ⟨true, c⟩) → mapChar k c = [])

/-- O11. R115: `MapAll` is the concatenation of the maps; its length is at most twice the text's, and equals it exactly
when as many characters are extension characters as are dropped. -/
def Obligations.MapAllLengthBounds : Prop :=
  ∀ k : Config, mapAll k [] = [] ∧
    (∀ (c : Nat) (text : List Nat), mapAll k (c :: text) = mapChar k c ++ mapAll k text) ∧
    ∀ text : List Nat, (mapAll k text).length ≤ 2 * text.length ∧
      ((mapAll k text).length = text.length ↔ text.countP (isExtension k) = text.countP (isDropped k))

/-- O12. R112: a character in neither table contributes nothing: no septet, the command completes and changes nothing,
the run goes on as if it had never been sent, the text encodes as if it were not there, and a message of it alone is the
empty hex string. -/
def Obligations.DroppedCharacterIsInvisible : Prop :=
  ∀ (k : Config) (c : Nat), (∀ i, memRead k.primary i ≠ ⟨true, c⟩) → (∀ j, memRead k.ext j ≠ ⟨true, c⟩) →
    mapChar k c = [] ∧
    (∀ s : State, s.cfg = k → exec (.char c) s = .next s) ∧
    (∀ (s : State) (is : List Instr), s.cfg = k → runCommands (.char c :: is) s = runCommands is s) ∧
    (∀ a b : List Nat, encodeText k (a ++ c :: b) = encodeText k (a ++ b)) ∧
    (∀ n : Nat, encodeText k (List.replicate n c) = [])

/-! ## The commands -/

/-- O13. R90: what `CHAR c` does, case by case: primary character on a byte boundary; primary character with bits
pending; extension character at `np = 0`, `np = 1`, `np >= 2`; dropped character. Every field not named keeps its value.
The command completes in every state and with every operand. -/
def Obligations.CharEffect : Prop :=
  ∀ (c : Nat) (s : State),
    (∀ i, find s.cfg.primary c = some i → s.np = 0 →
      exec (.char c) s = .next { s with np := 7, acc := i }) ∧
    (∀ i, find s.cfg.primary c = some i → s.np ≠ 0 →
      let p := s.np.toNat
      let b : Byte := (s.acc.setWidth 8 <<< (8 - p)) ||| (i.setWidth 8 >>> (p - 1))
      exec (.char c) s = .next
        { s with
          np := s.np - 1
          acc := i &&& BitVec.ofNat 7 (2 ^ (p - 1) - 1)
          oq := s.oq ++ hexTokens b
          out := s.out ++ hexTokens b }) ∧
    (∀ j, find s.cfg.primary c = none → find s.cfg.ext c = some j → s.np = 0 →
      let b : Byte := (esc.setWidth 8 <<< 1) ||| (j.setWidth 8 >>> 6)
      exec (.char c) s = .next
        { s with np := 6, acc := j &&& 0x3F, oq := s.oq ++ hexTokens b, out := s.out ++ hexTokens b }) ∧
    (∀ j, find s.cfg.primary c = none → find s.cfg.ext c = some j → s.np = 1 →
      let b : Byte := (s.acc.setWidth 8 <<< 7) ||| esc.setWidth 8
      exec (.char c) s = .next
        { s with np := 7, acc := j, oq := s.oq ++ hexTokens b, out := s.out ++ hexTokens b }) ∧
    (∀ j, find s.cfg.primary c = none → find s.cfg.ext c = some j → 2 ≤ s.np.toNat →
      let p := s.np.toNat
      let b : Byte := (s.acc.setWidth 8 <<< (8 - p)) ||| (esc.setWidth 8 >>> (p - 1))
      let m : Septet := esc &&& BitVec.ofNat 7 (2 ^ (p - 1) - 1)
      let d : Byte := (m.setWidth 8 <<< (9 - p)) ||| (j.setWidth 8 >>> (p - 2))
      exec (.char c) s = .next
        { s with
          np := s.np - 2
          acc := j &&& BitVec.ofNat 7 (2 ^ (p - 2) - 1)
          oq := s.oq ++ (hexTokens b ++ hexTokens d)
          out := s.out ++ (hexTokens b ++ hexTokens d) }) ∧
    (find s.cfg.primary c = none → find s.cfg.ext c = none → exec (.char c) s = .next s)

/-- O14. R91 with R132, R133, R134: what `END` does at `np = 0`, `np = 1` and `np >= 2`. Every field not named keeps its
value. The command completes in every state. -/
def Obligations.EndEffect : Prop :=
  ∀ s : State,
    (s.np = 0 →
      exec .endMsg s = .next
        { s with np := 0, acc := 0, oq := s.oq ++ [0x100], out := s.out ++ [0x100] }) ∧
    (s.np = 1 →
      let b : Byte := (s.acc.setWidth 8 <<< 7) ||| 0x0D
      exec .endMsg s = .next
        { s with np := 0, acc := 0, oq := s.oq ++ (hexTokens b ++ [0x100]), out := s.out ++ (hexTokens b ++ [0x100]) }) ∧
    (2 ≤ s.np.toNat →
      let b : Byte := s.acc.setWidth 8 <<< (8 - s.np.toNat)
      exec .endMsg s = .next
        { s with np := 0, acc := 0, oq := s.oq ++ (hexTokens b ++ [0x100]), out := s.out ++ (hexTokens b ++ [0x100]) })

/-- O15. R160: no command in no state, and no clock cycle, ends in a fault or a refusal, and there is no fault reason. -/
def Obligations.NothingStopsTheBlock : Prop :=
  (∀ (i : Instr) (s : State), ∃ t, exec i s = .next t) ∧ (∀ s : State, ∃ t, step s = .next t) ∧
    ∀ _ : Fault, False

/-- O16. The frame of both commands: the configuration, so every entry of both tables, the tokens delivered, the command
stream and the host's pins are unchanged; `oq` and `out` only grow, by the same tokens, at most four. `np` and `acc` may
change (`40_commands.md` R90, R91, "Writes"). -/
def Obligations.CommandFrame : Prop :=
  ∀ (i : Instr) (s t : State), exec i s = .next t →
    t.cfg = s.cfg ∧ t.received = s.received ∧ t.cmdStream = s.cmdStream ∧ t.cycles = s.cycles ∧
    (∀ a : Septet, memRead t.cfg.primary a = memRead s.cfg.primary a ∧ memRead t.cfg.ext a = memRead s.cfg.ext a) ∧
    ∃ ts : List Token, t.oq = s.oq ++ ts ∧ t.out = s.out ++ ts ∧ ts.length ≤ 4

/-- O17. "Tokens emitted" of R90 and R91: `CHAR` emits 0, 2 or 4 tokens and `END` 1 or 3, and exactly when which. -/
def Obligations.TokenCountsPerCommand : Prop :=
  (∀ (c : Nat) (s t : State), exec (.char c) s = .next t →
    let n := t.out.length - s.out.length
    (n = 0 ∨ n = 2 ∨ n = 4) ∧
    (n = 0 ↔ isDropped s.cfg c = true ∨ ((find s.cfg.primary c).isSome = true ∧ s.np = 0)) ∧
    (n = 4 ↔ isExtension s.cfg c = true ∧ 2 ≤ s.np.toNat)) ∧
  (∀ s t : State, exec .endMsg s = .next t →
    let n := t.out.length - s.out.length
    (s.np = 0 → n = 1) ∧ (s.np ≠ 0 → n = 3))

/-- O18. R67 (with R66, R184): `EOM` is `0x100`, which is no `HEX` token; `CHAR` emits only `HEX` tokens of the sixteen
digits; `END` emits such tokens and then exactly one `EOM`. -/
def Obligations.EomComesOnlyAndLastFromEnd : Prop :=
  eomToken = 0x100 ∧ (∀ d : Byte, hexToken d ≠ eomToken) ∧
  (∀ (c : Nat) (s t : State), exec (.char c) s = .next t →
    ∃ ts : List Token, t.out = s.out ++ ts ∧ ∀ x ∈ ts, ∃ d ∈ digitCodes, x = hexToken d) ∧
  (∀ s t : State, exec .endMsg s = .next t →
    ∃ ts : List Token, t.out = s.out ++ ts ++ [eomToken] ∧ ∀ x ∈ ts, ∃ d ∈ digitCodes, x = hexToken d)

/-! ## Packing and the final byte -/

/-- O19. R130, R131 in arithmetic: the byte is `acc * 2^(8-p) + s / 2^(p-1)`, so the two parts never overlap, what is
left of `s` is `s mod 2^(p-1)`, and `np` counts down, from 0 to 7. -/
def Obligations.PackArithmetic : Prop :=
  ∀ acc s : Septet,
    (packByte 0 acc s = none ∧ packAcc 0 s = s ∧ packNp 0 = 7) ∧
    ∀ np : BitVec 3, np ≠ 0 → acc.toNat < 2 ^ np.toNat →
      (∃ b, packByte np acc s = some b ∧
        b.toNat = acc.toNat * 2 ^ (8 - np.toNat) + s.toNat / 2 ^ (np.toNat - 1)) ∧
      (packAcc np s).toNat = s.toNat % 2 ^ (np.toNat - 1) ∧ (packNp np).toNat = np.toNat - 1

/-- O20. R71: `Pack` neither loses, adds nor reorders a bit: pending bits followed by the septet are the byte returned, if
any, followed by the new pending bits; and `acc < 2^np` is kept. -/
def Obligations.PackKeepsTheBitStream : Prop :=
  ∀ (np : BitVec 3) (acc s : Septet), acc.toNat < 2 ^ np.toNat →
    pendingBits np acc ++ septetBits s =
      (packByte np acc s).toList.flatMap byteBits ++ pendingBits (packNp np) (packAcc np s) ∧
    (packAcc np s).toNat < 2 ^ (packNp np).toNat

/-- O21. R72: the final byte of a message with `r = 7N mod 8` leftover bits is those bits, the last `r` of the stream,
and then the filler, `0001101` when `r = 1`, whatever the bit's value, and zeros when `r >= 2`; there is none when
`r = 0`. -/
def Obligations.FinalByteIsLeftoverBitsThenFiller : Prop :=
  ∀ ss : List Septet,
    let r := 7 * ss.length % 8
    let leftover := (bitStream ss).drop (7 * ss.length - r)
    let final := flushByte (packRun 0 0 ss).2.1 (packRun 0 0 ss).2.2
    (r = 0 → final = none) ∧
    (r = 1 → final.toList.flatMap byteBits = leftover ++ [false, false, false, true, true, false, true] ∧
      (final = some 0x0D ∨ final = some 0x8D)) ∧
    (2 ≤ r → final.toList.flatMap byteBits = leftover ++ List.replicate (8 - r) false)

/-- O22. R137: the bytes returned by `Pack` on each septet from `np = 0` and then by `Flush` are `PackAll` of the
sequence, defined by its bit stream alone. -/
def Obligations.StreamedPackingEqualsPackAll : Prop :=
  packAll [] = [] ∧
  ∀ ss : List Septet,
    (packRun 0 0 ss).1 ++ (flushByte (packRun 0 0 ss).2.1 (packRun 0 0 ss).2.2).toList = packAll ss

/-- O23. R136 with R23: after `k` calls of `Pack` from `np = 0`, `np = (8 - k mod 8) mod 8 = 7k mod 8`, `floor(7k/8)`
bytes have been returned, the pending bits are the last `np` bits of the stream, and `acc < 2^np`. -/
def Obligations.PhaseOfThePacker : Prop :=
  ∀ ss : List Septet,
    (packRun 0 0 ss).2.1.toNat = (8 - ss.length % 8) % 8 ∧
    (packRun 0 0 ss).2.1.toNat = 7 * ss.length % 8 ∧
    (packRun 0 0 ss).1.length = 7 * ss.length / 8 ∧
    pendingBits (packRun 0 0 ss).2.1 (packRun 0 0 ss).2.2 =
      (bitStream ss).drop (7 * ss.length - 7 * ss.length % 8) ∧
    (packRun 0 0 ss).2.2.toNat < 2 ^ (packRun 0 0 ss).2.1.toNat

/-- O24. R135: `N` septets make exactly `ceil(7N/8)` bytes, `floor(7N/8)` from `Pack` and one more from `Flush` exactly
when `7N mod 8` is not 0. -/
def Obligations.PackedLength : Prop :=
  ∀ ss : List Septet,
    (packAll ss).length = (7 * ss.length + 7) / 8 ∧
    (packRun 0 0 ss).1.length = 7 * ss.length / 8 ∧
    ((flushByte (packRun 0 0 ss).2.1 (packRun 0 0 ss).2.2).isSome = true ↔ 7 * ss.length % 8 ≠ 0)

/-- O25. R44, R45: bit `q` of septet `m`, from the top, is bit `7m + q` of the stream; bit `8j + q` of the completed
stream is bit `7 - q` of byte `j`. -/
def Obligations.BitOrderOfSeptetsAndBytes : Prop :=
  ∀ ss : List Septet,
    (∀ m q : Nat, q < 7 → (bitStream ss)[7 * m + q]? = ss[m]?.map fun s => s.getLsbD (6 - q)) ∧
    (∀ j q : Nat, q < 8 → j < (packAll ss).length →
      (bitStream ss ++ fillBits ss.length)[8 * j + q]? = (packAll ss)[j]?.map fun b => b.getLsbD (7 - q))

/-- O26. R139: with `N mod 8 = 7` the septets and the septets followed by 13 pack to the same bytes, which a reader cuts
into the latter; so a text of so many septets and the text followed by a carriage return, where that maps to 13, have
the same hex string. -/
def Obligations.FillerCollidesWithCarriageReturn : Prop :=
  (∀ ss : List Septet, ss.length % 8 = 7 →
    packAll ss = packAll (ss ++ [13]) ∧ unpack (packAll ss) = ss ++ [13]) ∧
  ∀ (k : Config) (text : List Nat), k.wf = true →
    (∀ j : Septet, j.toNat < 13 → memRead k.primary j ≠ ⟨true, k.carriageReturn⟩) →
    (mapAll k text).length % 8 = 7 →
    encodeText k text = encodeText k (text ++ [k.carriageReturn])

/-- O27. The checking function `Unpack` of `95_test_vectors.md` section 5 inverts `PackAll`, but for the extra 13 read
when the septet count is 7 modulo 8. -/
def Obligations.UnpackInvertsPackAll : Prop :=
  ∀ ss : List Septet, unpack (packAll ss) = if ss.length % 8 = 7 then ss ++ [13] else ss

/-- O28. R188: `m` bytes fix the septet count to within one: it is `floor(8m/7)`, or one less when `m >= 1` and that is a
multiple of 8. -/
def Obligations.BytesFixSeptetCountToWithinOne : Prop :=
  ∀ ss : List Septet,
    ss.length = 8 * (packAll ss).length / 7 ∨
    (1 ≤ (packAll ss).length ∧ 8 * (packAll ss).length / 7 % 8 = 0 ∧
      ss.length + 1 = 8 * (packAll ss).length / 7)

/-! ## The hex renderer -/

/-- O29. R151, R73: the digit of every nibble is the code listed, and bit 7 is 0. -/
def Obligations.DigitCodesAsListed : Prop :=
  ∀ n : Nibble,
    (n.toNat ≤ 9 → digit n = 0x30 + n.setWidth 8) ∧ (10 ≤ n.toNat → digit n = 0x37 + n.setWidth 8) ∧
    digitCodes[n.toNat]? = some (digit n) ∧ (digit n).getLsbD 7 = false

/-- O30. The order of the two `Emit`s of R150 (R47): rendering a byte appends the digit of `b[7:4]` and then the digit of
`b[3:0]`, and changes nothing else. That it happens in the transition that produced the byte is in O13 and O14. -/
def Obligations.HexRendersHighNibbleFirst : Prop :=
  ∀ (b : Byte) (s : State),
    (highNibble b).toNat = b.toNat / 16 ∧ (lowNibble b).toNat = b.toNat % 16 ∧
    s.emitByte (some b) =
      { s with
        oq := s.oq ++ [hexToken (digit (highNibble b)), hexToken (digit (lowNibble b))]
        out := s.out ++ [hexToken (digit (highNibble b)), hexToken (digit (lowNibble b))] }

/-- O31. R154: different byte sequences have different hex strings, and reading the characters two at a time gives the
bytes back. -/
def Obligations.HexStringDeterminesBytes : Prop :=
  (∀ as bs : List Byte, hexStr as = hexStr bs → as = bs) ∧ ∀ bs : List Byte, readHex (hexStr bs) = bs

/-- O32. R153: the hex string of a message of `N` septets has `2 * ceil(7N/8)` characters and is empty exactly when
`N = 0`. -/
def Obligations.HexStringLength : Prop :=
  ∀ (k : Config) (text : List Nat),
    (encodeText k text).length = 2 * ((7 * (mapAll k text).length + 7) / 8) ∧
    (encodeText k text = [] ↔ (mapAll k text).length = 0)

/-! ## Whole messages -/

/-- O33. R92, R98: from any state with `np = 0` and `acc = 0`, the commands of `MSG text` complete, append exactly the
digits of `HexStr(PackAll(MapAll(text)))` and `EOM`, leave `np = 0` and `acc = 0`, and change nothing else. -/
def Obligations.WholeMessageLaw : Prop :=
  ∀ (text : List Nat) (s : State), s.np = 0 → s.acc = 0 →
    let ts := (hexStr (packAll (mapAll s.cfg text))).map hexToken ++ [eomToken]
    runCommands (text.map Instr.char ++ [.endMsg]) s = .next { s with oq := s.oq ++ ts, out := s.out ++ ts }

/-- O34. R97: `END` at `np = 0` emits `EOM` and nothing else; the empty text, and a text of dropped characters only, have
the empty hex string. -/
def Obligations.EmptyMessage : Prop :=
  (∀ s : State, s.np = 0 →
    exec .endMsg s = .next { s with np := 0, acc := 0, oq := s.oq ++ [eomToken], out := s.out ++ [eomToken] }) ∧
  (∀ k : Config, encodeText k [] = []) ∧
  (∀ (k : Config) (text : List Nat),
    (∀ c ∈ text, (∀ i, memRead k.primary i ≠ ⟨true, c⟩) ∧ ∀ j, memRead k.ext j ≠ ⟨true, c⟩) → encodeText k text = [])

/-- O35. The two testable properties S1 and S2 of `95_test_vectors.md` for whole texts: with no character at index 27 of
the primary table, unpacking the bytes of a message and looking its septets up gives the text without its dropped
characters, and one more entry, that of index 13, when the septet count is 7 modulo 8 (R70, R116, R139). -/
def Obligations.MessageReadsBack : Prop :=
  ∀ (k : Config) (text : List Nat), (memRead k.primary 27).valid = false →
    lookupSeptets k (unpack (packAll (mapAll k text))) =
      ((text.filter fun c => !isDropped k c).map fun c => TableEntry.mk true c) ++
        (if (mapAll k text).length % 8 = 7 then [memRead k.primary 13] else [])

/-- O36. R183: after `END` the registers are at their reset values, and nothing of the message before it influences the
commands after it: whatever two blocks of the same configuration had pending, they go on alike. -/
def Obligations.EndSeparatesMessages : Prop :=
  (∀ s t : State, exec .endMsg s = .next t → t.np = 0 ∧ t.acc = 0) ∧
  ∀ (s₁ s₂ t₁ t₂ : State) (is : List Instr), s₁.cfg = s₂.cfg →
    exec .endMsg s₁ = .next t₁ → exec .endMsg s₂ = .next t₂ →
    ∃ (u₁ u₂ : State) (ts : List Token), runCommands is t₁ = .next u₁ ∧ runCommands is t₂ = .next u₂ ∧
      u₁.out = t₁.out ++ ts ∧ u₂.out = t₂.out ++ ts ∧ u₁.np = u₂.np ∧ u₁.acc = u₂.acc

/-- O37. R29: `oq` and its capacity never change the value or the order of the tokens: two blocks with the same tables
and registers emit the same tokens for the same commands, whatever their queues, capacities, histories and hosts. -/
def Obligations.QueueNeverChangesTokens : Prop :=
  ∀ (is : List Instr) (s₁ s₂ : State), s₁.cfg.primary = s₂.cfg.primary → s₁.cfg.ext = s₂.cfg.ext →
    s₁.np = s₂.np → s₁.acc = s₂.acc →
    ∃ (u₁ u₂ : State) (ts : List Token), runCommands is s₁ = .next u₁ ∧ runCommands is s₂ = .next u₂ ∧
      u₁.out = s₁.out ++ ts ∧ u₂.out = s₂.out ++ ts ∧ u₁.np = u₂.np ∧ u₁.acc = u₂.acc

/-! ## Clock cycles -/

/-- O38. R31: the values after reset. -/
def Obligations.ResetStateAsStated : Prop :=
  State.reset.np = 0 ∧ State.reset.acc = 0 ∧ State.reset.oq = []

/-- O39. R180 (with R163, R181): in a cycle with `rst = 1` the registers and the queue are reset, whatever the handshake
signals show, and no transfer happens: the command stream and the tokens delivered are unchanged, as is the history
`out` (R30). -/
def Obligations.ResetPinWins : Prop :=
  ∀ (s : State) (p : HostCycle) (ps : List HostCycle), s.cycles = p :: ps → p.rst = true →
    step s = .next { s with np := 0, acc := 0, oq := [], cycles := ps }

/-- O40. A step runs the decoded command: in a cycle with `rst = 0`, `in_valid = 1` and four places free in `oq`, the word
at the head of the command stream is consumed and executed, after the output transfer if there is one (R55, R95,
R163). -/
def Obligations.StepRunsTheDecodedCommand : Prop :=
  ∀ (s : State) (p : HostCycle) (ps : List HostCycle) (w : Nat) (ws : List Nat) (i : Instr),
    s.cycles = p :: ps → p.rst = false → p.inValid = true → s.oq.length + 4 ≤ s.cfg.oqDepth →
    s.cmdStream = w :: ws → decodeWord s.cfg.charW w = .ok i →
    (p.outReady = false → step s = exec i { s with cmdStream := ws, cycles := ps }) ∧
    (s.oq = [] → step s = exec i { s with cmdStream := ws, cycles := ps }) ∧
    (∀ t ts, p.outReady = true → s.oq = t :: ts →
      step s = exec i { s with oq := ts, received := s.received ++ [t], cmdStream := ws, cycles := ps })

/-- O41. A cycle with `rst = 0` in which no command is transferred (none offered, none left, or fewer than four places
free): `POP` delivers the head of `oq` if it is offered and wanted (R96), and otherwise nothing changes (R95, R172).
After the last cycle the host listed, nothing changes at all (log 5). -/
def Obligations.CycleWithoutCommand : Prop :=
  (∀ (s : State) (p : HostCycle) (ps : List HostCycle), s.cycles = p :: ps → p.rst = false →
    (p.inValid = false ∨ s.cmdStream = [] ∨ s.cfg.oqDepth < s.oq.length + 4) →
    ((p.outReady = false ∨ s.oq = []) → step s = .next { s with cycles := ps }) ∧
    (∀ t ts, p.outReady = true → s.oq = t :: ts →
      step s = .next { s with oq := ts, received := s.received ++ [t], cycles := ps })) ∧
  (∀ s : State, s.cycles = [] → step s = .next s)

/-- O42. R95: while fewer than four places are free the block holds, for ever if no output transfer and no reset come: it
executes nothing and changes no state. -/
def Obligations.HoldLiftsOnlyByTransferOrReset : Prop :=
  ∀ (k : Nat) (s : State), s.cfg.oqDepth < s.oq.length + 4 →
    (∀ p ∈ s.cycles.take k, p.rst = false ∧ p.outReady = false) →
    runSteps k s = .next { s with cycles := s.cycles.drop k }

/-- O43. R55, R96: an offered token is neither withdrawn nor changed except by reset, and is delivered exactly once, when
it is taken. -/
def Obligations.OfferedTokenHoldsUntilTaken : Prop :=
  ∀ (s t : State) (x : Token), s.outTok = some x → s.pins.rst = false → step s = .next t →
    (s.pins.outReady = false → t.outTok = some x ∧ t.received = s.received) ∧
    (s.pins.outReady = true → t.received = s.received ++ [x])

/-- O44. Presenting a table word makes the very next step execute it, in any state (the host takes only as many tokens as
it must for four places to be free), and from reset with nothing else changed. -/
def Obligations.PresentedWordRunsNext : Prop :=
  (∀ (s : State) (nbits w : Nat) (i : Instr), 4 ≤ s.cfg.oqDepth → w < 2 ^ nbits →
    decodeWord s.cfg.charW w = .ok i →
    step (s.withFetchWord nbits w) = exec i
      { s with
        oq := s.oq.drop (s.oq.length + 4 - s.cfg.oqDepth)
        received := s.received ++ s.oq.take (s.oq.length + 4 - s.cfg.oqDepth) }) ∧
  (∀ (nbits w : Nat) (i : Instr), decodeTableWord nbits w = some i →
    step (State.reset.withFetchWord nbits w) = exec i State.reset)

/-! ## Invariants and runs -/

/-- O45. The invariant holds at reset. -/
def Obligations.InvariantAtReset : Prop := State.reset.Inv

/-- O46. Every step keeps the invariant: `acc < 2^np` (R22), `oq` within its capacity (R20, R29), only legal tokens (R66,
R67), and what the host received and what is queued are emitted tokens in emission order, each at most once (R50). -/
def Obligations.StepKeepsInvariant : Prop :=
  ∀ s t : State, s.Inv → step s = .next t → t.Inv

/-- O47. R30: the tokens received followed by the tokens queued are the trace `out`, and every step keeps it so, unless a
reset discards tokens. -/
def Obligations.NoTokenIsLostWithoutReset : Prop :=
  ∀ s t : State, s.traceWhole → (s.pins.rst = true → s.oq = []) → step s = .next t →
    t.traceWhole ∧ t.received <+: t.out

/-- O48. R50, R51, R163: any run of clock cycles is a run of atomic transitions in which exactly the commands taken off
the stream are executed, in order, each once, with the host's pops and one reset per cycle of `rst`. -/
def Obligations.ClockedRunIsACommandRun : Prop :=
  ∀ (k : Nat) (s t : State), runSteps k s = .next t →
    ∃ (n : Nat) (acts : List HostAction) (u : State),
      n ≤ s.cmdStream.length ∧
      commandsOf acts = (s.cmdStream.take n).map (decodeCmd s.cfg.charW) ∧
      acts.count .reset = (s.cycles.take k).countP (fun p => p.rst) ∧
      runActions acts s = .next u ∧
      t = { u with cmdStream := s.cmdStream.drop n, cycles := s.cycles.drop k }

/-- O49. R186: a queue of `2 * floor(7n/4) + 4` places takes a whole message of `n` characters before the host reads
anything. -/
def Obligations.DeepQueueTakesWholeMessage : Prop :=
  ∀ (text : List Nat) (s : State), s.np = 0 → s.acc = 0 → s.oq = [] →
    (∀ c ∈ text, c < 2 ^ s.cfg.charW) → 2 * (7 * text.length / 4) + 4 ≤ s.cfg.oqDepth →
    s.cmdStream = msgWords s.cfg.charW text →
    s.cycles = List.replicate (text.length + 1) ⟨false, true, false⟩ →
    ∃ t, runSteps (text.length + 1) s = .next t ∧ t.cmdStream = [] ∧ t.received = s.received ∧
      t.oq = messageTokens s.cfg text ∧ t.out = s.out ++ messageTokens s.cfg text

/-- O50. R190 with R95: a host that offers its command and takes every token offered has a command accepted within five
cycles, whatever the queue held. -/
def Obligations.DrainedQueueAcceptsACommand : Prop :=
  ∀ s : State, 4 ≤ s.cfg.oqDepth → s.queueFits → s.cmdStream ≠ [] →
    s.cycles.take 5 = List.replicate 5 ⟨false, true, true⟩ →
    ∃ t, runSteps 5 s = .next t ∧ t.cmdStream.length < s.cmdStream.length

/-- O51. R92 with R190: a host that offers the words of `MSG text` and takes every token offered has, after five cycles
per word, received exactly the digits of `Encode(text)` and `EOM`, at any capacity the spec allows. -/
def Obligations.DrainingHostReceivesWholeMessage : Prop :=
  ∀ (text : List Nat) (s : State), s.np = 0 → s.acc = 0 → s.oq = [] →
    (∀ c ∈ text, c < 2 ^ s.cfg.charW) → 4 ≤ s.cfg.oqDepth →
    s.cmdStream = msgWords s.cfg.charW text →
    s.cycles = List.replicate (5 * (text.length + 1)) ⟨false, true, true⟩ →
    ∃ t, runSteps (5 * (text.length + 1)) s = .next t ∧ t.cmdStream = [] ∧ t.oq = [] ∧ t.np = 0 ∧ t.acc = 0 ∧
      t.received = s.received ++ messageTokens s.cfg text ∧ t.out = s.out ++ messageTokens s.cfg text

/-! ## The default primary table -/

/-- O52. The default `PRIMARY` as R76 prints it: row `n` of the table holds the characters of the indexes `n`,
`n + 0x20`, `n + 0x40` and `n + 0x60`, each with `valid = 1`, and none at index 27. The contents are PRESUMED (log 2): the
spec supplies them from general knowledge. -/
def Obligations.DefaultPrimaryAsListed : Prop :=
  let row : Nat → List (Option Nat) := fun n => [0x00, 0x20, 0x40, 0x60].map fun column =>
    let e := memRead defaultPrimary (BitVec.ofNat 7 (column + n))
    if e.valid then some e.char else none
  row 0x00 = [some 0x0040, some 0x0020, some 0x00A1, some 0x00BF] ∧
  row 0x01 = [some 0x00A3, some 0x0021, some 0x0041, some 0x0061] ∧
  row 0x02 = [some 0x0024, some 0x0022, some 0x0042, some 0x0062] ∧
  row 0x03 = [some 0x00A5, some 0x0023, some 0x0043, some 0x0063] ∧
  row 0x04 = [some 0x00E8, some 0x00A4, some 0x0044, some 0x0064] ∧
  row 0x05 = [some 0x00E9, some 0x0025, some 0x0045, some 0x0065] ∧
  row 0x06 = [some 0x00F9, some 0x0026, some 0x0046, some 0x0066] ∧
  row 0x07 = [some 0x00EC, some 0x0027, some 0x0047, some 0x0067] ∧
  row 0x08 = [some 0x00F2, some 0x0028, some 0x0048, some 0x0068] ∧
  row 0x09 = [some 0x00C7, some 0x0029, some 0x0049, some 0x0069] ∧
  row 0x0A = [some 0x000A, some 0x002A, some 0x004A, some 0x006A] ∧
  row 0x0B = [some 0x00D8, some 0x002B, some 0x004B, some 0x006B] ∧
  row 0x0C = [some 0x00F8, some 0x002C, some 0x004C, some 0x006C] ∧
  row 0x0D = [some 0x000D, some 0x002D, some 0x004D, some 0x006D] ∧
  row 0x0E = [some 0x00C5, some 0x002E, some 0x004E, some 0x006E] ∧
  row 0x0F = [some 0x00E5, some 0x002F, some 0x004F, some 0x006F] ∧
  row 0x10 = [some 0x0394, some 0x0030, some 0x0050, some 0x0070] ∧
  row 0x11 = [some 0x005F, some 0x0031, some 0x0051, some 0x0071] ∧
  row 0x12 = [some 0x03A6, some 0x0032, some 0x0052, some 0x0072] ∧
  row 0x13 = [some 0x0393, some 0x0033, some 0x0053, some 0x0073] ∧
  row 0x14 = [some 0x039B, some 0x0034, some 0x0054, some 0x0074] ∧
  row 0x15 = [some 0x03A9, some 0x0035, some 0x0055, some 0x0075] ∧
  row 0x16 = [some 0x03A0, some 0x0036, some 0x0056, some 0x0076] ∧
  row 0x17 = [some 0x03A8, some 0x0037, some 0x0057, some 0x0077] ∧
  row 0x18 = [some 0x03A3, some 0x0038, some 0x0058, some 0x0078] ∧
  row 0x19 = [some 0x0398, some 0x0039, some 0x0059, some 0x0079] ∧
  row 0x1A = [some 0x039E, some 0x003A, some 0x005A, some 0x007A] ∧
  row 0x1B = [none, some 0x003B, some 0x00C4, some 0x00E4] ∧
  row 0x1C = [some 0x00C6, some 0x003C, some 0x00D6, some 0x00F6] ∧
  row 0x1D = [some 0x00E6, some 0x003D, some 0x00D1, some 0x00F1] ∧
  row 0x1E = [some 0x00DF, some 0x003E, some 0x00DC, some 0x00FC] ∧
  row 0x1F = [some 0x00C9, some 0x003F, some 0x00A7, some 0x00E0]
end

