-- ==== Sys2Proof/Laws/State.lean ====
section
/-! SUPPORT. One lemma per field per update of the state, each true by `rfl` (or by the two cases of an optional byte),
so that no later proof unfolds a record update. -/

namespace Sys2Proof.Machine

/-! `emit` -/

@[simp] theorem State.emit_cfg (s : State) (t : Token) : (s.emit t).cfg = s.cfg := rfl
@[simp] theorem State.emit_np (s : State) (t : Token) : (s.emit t).np = s.np := rfl
@[simp] theorem State.emit_acc (s : State) (t : Token) : (s.emit t).acc = s.acc := rfl
@[simp] theorem State.emit_oq (s : State) (t : Token) : (s.emit t).oq = s.oq ++ [t] := rfl
@[simp] theorem State.emit_out (s : State) (t : Token) : (s.emit t).out = s.out ++ [t] := rfl
@[simp] theorem State.emit_received (s : State) (t : Token) : (s.emit t).received = s.received := rfl
@[simp] theorem State.emit_cmdStream (s : State) (t : Token) : (s.emit t).cmdStream = s.cmdStream := rfl
@[simp] theorem State.emit_cycles (s : State) (t : Token) : (s.emit t).cycles = s.cycles := rfl

/-! `resetPin` -/

@[simp] theorem State.resetPin_cfg (s : State) : s.resetPin.cfg = s.cfg := rfl
@[simp] theorem State.resetPin_np (s : State) : s.resetPin.np = 0 := rfl
@[simp] theorem State.resetPin_acc (s : State) : s.resetPin.acc = 0 := rfl
@[simp] theorem State.resetPin_oq (s : State) : s.resetPin.oq = [] := rfl
@[simp] theorem State.resetPin_out (s : State) : s.resetPin.out = s.out := rfl
@[simp] theorem State.resetPin_received (s : State) : s.resetPin.received = s.received := rfl
@[simp] theorem State.resetPin_cmdStream (s : State) : s.resetPin.cmdStream = s.cmdStream := rfl
@[simp] theorem State.resetPin_cycles (s : State) : s.resetPin.cycles = s.cycles := rfl

/-! `tick` -/

@[simp] theorem State.tick_cfg (s : State) : s.tick.cfg = s.cfg := rfl
@[simp] theorem State.tick_np (s : State) : s.tick.np = s.np := rfl
@[simp] theorem State.tick_acc (s : State) : s.tick.acc = s.acc := rfl
@[simp] theorem State.tick_oq (s : State) : s.tick.oq = s.oq := rfl
@[simp] theorem State.tick_out (s : State) : s.tick.out = s.out := rfl
@[simp] theorem State.tick_received (s : State) : s.tick.received = s.received := rfl
@[simp] theorem State.tick_cmdStream (s : State) : s.tick.cmdStream = s.cmdStream := rfl
@[simp] theorem State.tick_cycles (s : State) : s.tick.cycles = s.cycles.tail := rfl

/-! `consumeCommand` -/

@[simp] theorem State.consumeCommand_cfg (s : State) : s.consumeCommand.cfg = s.cfg := rfl
@[simp] theorem State.consumeCommand_np (s : State) : s.consumeCommand.np = s.np := rfl
@[simp] theorem State.consumeCommand_acc (s : State) : s.consumeCommand.acc = s.acc := rfl
@[simp] theorem State.consumeCommand_oq (s : State) : s.consumeCommand.oq = s.oq := rfl
@[simp] theorem State.consumeCommand_out (s : State) : s.consumeCommand.out = s.out := rfl
@[simp] theorem State.consumeCommand_received (s : State) : s.consumeCommand.received = s.received := rfl
@[simp] theorem State.consumeCommand_cmdStream (s : State) : s.consumeCommand.cmdStream = s.cmdStream.tail := rfl
@[simp] theorem State.consumeCommand_cycles (s : State) : s.consumeCommand.cycles = s.cycles := rfl

/-! `pack` -/

@[simp] theorem State.pack_cfg (s : State) (x : Septet) : (s.pack x).2.cfg = s.cfg := rfl
@[simp] theorem State.pack_np (s : State) (x : Septet) : (s.pack x).2.np = packNp s.np := rfl
@[simp] theorem State.pack_acc (s : State) (x : Septet) : (s.pack x).2.acc = packAcc s.np x := rfl
@[simp] theorem State.pack_oq (s : State) (x : Septet) : (s.pack x).2.oq = s.oq := rfl
@[simp] theorem State.pack_out (s : State) (x : Septet) : (s.pack x).2.out = s.out := rfl
@[simp] theorem State.pack_received (s : State) (x : Septet) : (s.pack x).2.received = s.received := rfl
@[simp] theorem State.pack_cmdStream (s : State) (x : Septet) : (s.pack x).2.cmdStream = s.cmdStream := rfl
@[simp] theorem State.pack_cycles (s : State) (x : Septet) : (s.pack x).2.cycles = s.cycles := rfl

/-! `flush` -/

@[simp] theorem State.flush_cfg (s : State) : s.flush.2.cfg = s.cfg := rfl
@[simp] theorem State.flush_np (s : State) : s.flush.2.np = 0 := rfl
@[simp] theorem State.flush_acc (s : State) : s.flush.2.acc = 0 := rfl
@[simp] theorem State.flush_oq (s : State) : s.flush.2.oq = s.oq := rfl
@[simp] theorem State.flush_out (s : State) : s.flush.2.out = s.out := rfl
@[simp] theorem State.flush_received (s : State) : s.flush.2.received = s.received := rfl
@[simp] theorem State.flush_cmdStream (s : State) : s.flush.2.cmdStream = s.cmdStream := rfl
@[simp] theorem State.flush_cycles (s : State) : s.flush.2.cycles = s.cycles := rfl

/-! `makeRoom` -/

@[simp] theorem State.makeRoom_cfg (s : State) : s.makeRoom.cfg = s.cfg := rfl
@[simp] theorem State.makeRoom_np (s : State) : s.makeRoom.np = s.np := rfl
@[simp] theorem State.makeRoom_acc (s : State) : s.makeRoom.acc = s.acc := rfl
@[simp] theorem State.makeRoom_oq (s : State) : s.makeRoom.oq = s.oq.drop (s.oq.length + 4 - s.cfg.oqDepth) := rfl
@[simp] theorem State.makeRoom_out (s : State) : s.makeRoom.out = s.out := rfl
@[simp] theorem State.makeRoom_received (s : State) : s.makeRoom.received = s.received ++ s.oq.take (s.oq.length + 4 - s.cfg.oqDepth) := rfl
@[simp] theorem State.makeRoom_cmdStream (s : State) : s.makeRoom.cmdStream = s.cmdStream := rfl
@[simp] theorem State.makeRoom_cycles (s : State) : s.makeRoom.cycles = s.cycles := rfl

/-! `presentWord` -/

@[simp] theorem State.presentWord_cfg (s : State) (w : Nat) : (s.presentWord w).cfg = s.cfg := rfl
@[simp] theorem State.presentWord_np (s : State) (w : Nat) : (s.presentWord w).np = s.np := rfl
@[simp] theorem State.presentWord_acc (s : State) (w : Nat) : (s.presentWord w).acc = s.acc := rfl
@[simp] theorem State.presentWord_oq (s : State) (w : Nat) : (s.presentWord w).oq = s.oq.drop (s.oq.length + 4 - s.cfg.oqDepth) := rfl
@[simp] theorem State.presentWord_out (s : State) (w : Nat) : (s.presentWord w).out = s.out := rfl
@[simp] theorem State.presentWord_received (s : State) (w : Nat) : (s.presentWord w).received = s.received ++ s.oq.take (s.oq.length + 4 - s.cfg.oqDepth) := rfl
@[simp] theorem State.presentWord_cmdStream (s : State) (w : Nat) : (s.presentWord w).cmdStream = w :: s.cmdStream := rfl
@[simp] theorem State.presentWord_cycles (s : State) (w : Nat) : (s.presentWord w).cycles = ⟨false, true, false⟩ :: s.cycles := rfl

@[simp] theorem State.pack_byte (s : State) (x : Septet) : (s.pack x).1 = packByte s.np s.acc x := rfl
@[simp] theorem State.flush_byte (s : State) : s.flush.1 = flushByte s.np s.acc := rfl

/-! `emitByte` and `packEmit` -/

@[simp] theorem State.emitByte_none (s : State) : s.emitByte none = s := rfl

@[simp] theorem State.emitByte_cfg (s : State) (b : Option Byte) : (s.emitByte b).cfg = s.cfg := by cases b <;> rfl
@[simp] theorem State.emitByte_np (s : State) (b : Option Byte) : (s.emitByte b).np = s.np := by cases b <;> rfl
@[simp] theorem State.emitByte_acc (s : State) (b : Option Byte) : (s.emitByte b).acc = s.acc := by cases b <;> rfl
@[simp] theorem State.emitByte_oq (s : State) (b : Option Byte) :
    (s.emitByte b).oq = s.oq ++ b.toList.flatMap hexTokens := by cases b <;> simp [State.emitByte, hexTokens]
@[simp] theorem State.emitByte_out (s : State) (b : Option Byte) :
    (s.emitByte b).out = s.out ++ b.toList.flatMap hexTokens := by cases b <;> simp [State.emitByte, hexTokens]
@[simp] theorem State.emitByte_received (s : State) (b : Option Byte) : (s.emitByte b).received = s.received := by cases b <;> rfl
@[simp] theorem State.emitByte_cmdStream (s : State) (b : Option Byte) : (s.emitByte b).cmdStream = s.cmdStream := by cases b <;> rfl
@[simp] theorem State.emitByte_cycles (s : State) (b : Option Byte) : (s.emitByte b).cycles = s.cycles := by cases b <;> rfl

@[simp] theorem State.packEmit_cfg (s : State) (x : Septet) : (s.packEmit x).cfg = s.cfg := by simp [State.packEmit]
@[simp] theorem State.packEmit_np (s : State) (x : Septet) : (s.packEmit x).np = packNp s.np := by simp [State.packEmit]
@[simp] theorem State.packEmit_acc (s : State) (x : Septet) : (s.packEmit x).acc = packAcc s.np x := by simp [State.packEmit]
@[simp] theorem State.packEmit_oq (s : State) (x : Septet) :
    (s.packEmit x).oq = s.oq ++ (packByte s.np s.acc x).toList.flatMap hexTokens := by simp [State.packEmit]
@[simp] theorem State.packEmit_out (s : State) (x : Septet) :
    (s.packEmit x).out = s.out ++ (packByte s.np s.acc x).toList.flatMap hexTokens := by simp [State.packEmit]
@[simp] theorem State.packEmit_received (s : State) (x : Septet) : (s.packEmit x).received = s.received := by simp [State.packEmit]
@[simp] theorem State.packEmit_cmdStream (s : State) (x : Septet) : (s.packEmit x).cmdStream = s.cmdStream := by simp [State.packEmit]
@[simp] theorem State.packEmit_cycles (s : State) (x : Septet) : (s.packEmit x).cycles = s.cycles := by simp [State.packEmit]

/-! `pop` -/

theorem State.pop_nil (s : State) (h : s.oq = []) : s.pop = s := by simp [State.pop, h]

theorem State.pop_cons (s : State) (t : Token) (ts : List Token) (h : s.oq = t :: ts) :
    s.pop = { s with oq := ts, received := s.received ++ [t] } := by simp [State.pop, h]

@[simp] theorem State.pop_cfg (s : State) : s.pop.cfg = s.cfg := by cases h : s.oq <;> simp [State.pop, h]
@[simp] theorem State.pop_np (s : State) : s.pop.np = s.np := by cases h : s.oq <;> simp [State.pop, h]
@[simp] theorem State.pop_acc (s : State) : s.pop.acc = s.acc := by cases h : s.oq <;> simp [State.pop, h]
@[simp] theorem State.pop_oq (s : State) : s.pop.oq = s.oq.tail := by
  cases h : s.oq <;> simp [State.pop, h]
@[simp] theorem State.pop_out (s : State) : s.pop.out = s.out := by cases h : s.oq <;> simp [State.pop, h]
@[simp] theorem State.pop_received (s : State) : s.pop.received = s.received ++ s.oq.take 1 := by
  cases h : s.oq <;> simp [State.pop, h]
@[simp] theorem State.pop_cmdStream (s : State) : s.pop.cmdStream = s.cmdStream := by cases h : s.oq <;> simp [State.pop, h]
@[simp] theorem State.pop_cycles (s : State) : s.pop.cycles = s.cycles := by cases h : s.oq <;> simp [State.pop, h]

/-- `pop` as one record update, the empty queue included. -/
theorem State.pop_eq (s : State) : s.pop = { s with oq := s.oq.tail, received := s.received ++ s.oq.take 1 } := by
  cases s with
  | mk cfg np acc oq out received cmdStream cycles => cases oq <;> simp [State.pop]

/-- `outputTransfer` as one record update: it takes one token or none. -/
theorem State.outputTransfer_eq (s : State) (p : HostCycle) :
    s.outputTransfer p =
      { s with
        oq := s.oq.drop (if p.outReady then 1 else 0)
        received := s.received ++ s.oq.take (if p.outReady then 1 else 0) } := by
  cases s with
  | mk cfg np acc oq out received cmdStream cycles =>
    cases hp : p.outReady <;> cases oq <;> simp [State.outputTransfer, State.outValid, State.pop, hp]

/-! `outputTransfer`: it is `pop` or nothing. -/

@[simp] theorem State.outputTransfer_cfg (s : State) (p : HostCycle) : (s.outputTransfer p).cfg = s.cfg := by
  unfold State.outputTransfer; split <;> simp
@[simp] theorem State.outputTransfer_np (s : State) (p : HostCycle) : (s.outputTransfer p).np = s.np := by
  unfold State.outputTransfer; split <;> simp
@[simp] theorem State.outputTransfer_acc (s : State) (p : HostCycle) : (s.outputTransfer p).acc = s.acc := by
  unfold State.outputTransfer; split <;> simp
@[simp] theorem State.outputTransfer_out (s : State) (p : HostCycle) : (s.outputTransfer p).out = s.out := by
  unfold State.outputTransfer; split <;> simp
@[simp] theorem State.outputTransfer_cmdStream (s : State) (p : HostCycle) : (s.outputTransfer p).cmdStream = s.cmdStream := by
  unfold State.outputTransfer; split <;> simp
@[simp] theorem State.outputTransfer_cycles (s : State) (p : HostCycle) : (s.outputTransfer p).cycles = s.cycles := by
  unfold State.outputTransfer; split <;> simp

end Sys2Proof.Machine
end

