-- ==== Sys2Proof/Laws/Ops.lean ====
section
/-! SUPPORT. For each shared operation, one lemma that says everything it can do; the provers cite these instead of
unfolding the operation. -/

namespace Sys2Proof.Machine

/-- Two states are equal when every field is. -/
theorem State.ext_fields {s t : State} (h1 : s.cfg = t.cfg) (h2 : s.np = t.np) (h3 : s.acc = t.acc) (h4 : s.oq = t.oq)
    (h5 : s.out = t.out) (h6 : s.received = t.received) (h7 : s.cmdStream = t.cmdStream)
    (h8 : s.cycles = t.cycles) : s = t := by
  cases s; cases t; simp_all

/-! ## Operands -/

theorem memRead_eq_toList (t : Table) (i : Septet) :
    memRead t i = t.toList[i.toNat]'(by simpa using i.isLt) := by simp [memRead]

theorem mapChar_primary {k : Config} {c : Nat} {i : Septet} (h : find k.primary c = some i) :
    mapChar k c = [i] := by simp [mapChar, h]

theorem mapChar_extension {k : Config} {c : Nat} {j : Septet} (hp : find k.primary c = none)
    (he : find k.ext c = some j) : mapChar k c = [esc, j] := by simp [mapChar, hp, he]

theorem mapChar_dropped {k : Config} {c : Nat} (hp : find k.primary c = none) (he : find k.ext c = none) :
    mapChar k c = [] := by simp [mapChar, hp, he]

@[simp] theorem mapAll_nil (k : Config) : mapAll k [] = [] := rfl

@[simp] theorem mapAll_cons (k : Config) (c : Nat) (cs : List Nat) :
    mapAll k (c :: cs) = mapChar k c ++ mapAll k cs := by simp [mapAll]

/-- `Map` gives at most two septets. -/
theorem mapChar_length_le (k : Config) (c : Nat) : (mapChar k c).length ≤ 2 := by
  unfold mapChar; split
  · simp
  · split <;> simp

/-! ## Packing -/

@[simp] theorem packRun_nil (np : BitVec 3) (acc : Septet) : packRun np acc [] = ([], np, acc) := rfl

@[simp] theorem packRun_cons (np : BitVec 3) (acc x : Septet) (xs : List Septet) :
    packRun np acc (x :: xs) =
      ((packByte np acc x).toList ++ (packRun (packNp np) (packAcc np x) xs).1,
        (packRun (packNp np) (packAcc np x) xs).2) := rfl

theorem packRun_append (np : BitVec 3) (acc : Septet) (xs ys : List Septet) :
    packRun np acc (xs ++ ys) =
      ((packRun np acc xs).1 ++ (packRun (packRun np acc xs).2.1 (packRun np acc xs).2.2 ys).1,
        (packRun (packRun np acc xs).2.1 (packRun np acc xs).2.2 ys).2) := by
  induction xs generalizing np acc with
  | nil => simp
  | cons x xs ih => simp [ih]

/-- The state after `CHAR`'s loop over a septet sequence: the registers after packing it, and two tokens a byte. -/
theorem foldl_packEmit (xs : List Septet) (s : State) :
    xs.foldl State.packEmit s =
      { s with
        np := (packRun s.np s.acc xs).2.1
        acc := (packRun s.np s.acc xs).2.2
        oq := s.oq ++ (packRun s.np s.acc xs).1.flatMap hexTokens
        out := s.out ++ (packRun s.np s.acc xs).1.flatMap hexTokens } := by
  induction xs generalizing s with
  | nil => simp
  | cons x xs ih =>
    rw [List.foldl_cons, ih]
    exact State.ext_fields (by simp) (by simp) (by simp) (by simp) (by simp) (by simp) (by simp) (by simp)

/-- Everything `CHAR c` does. -/
theorem execChar_eq (c : Nat) (s : State) :
    execChar c s = .next
      { s with
        np := (packRun s.np s.acc (mapChar s.cfg c)).2.1
        acc := (packRun s.np s.acc (mapChar s.cfg c)).2.2
        oq := s.oq ++ (packRun s.np s.acc (mapChar s.cfg c)).1.flatMap hexTokens
        out := s.out ++ (packRun s.np s.acc (mapChar s.cfg c)).1.flatMap hexTokens } := by
  rw [execChar, foldl_packEmit]

/-- Everything `END` does. -/
theorem execEnd_eq (s : State) :
    execEnd s = .next
      { s with
        np := 0
        acc := 0
        oq := s.oq ++ ((flushByte s.np s.acc).toList.flatMap hexTokens ++ [eomToken])
        out := s.out ++ ((flushByte s.np s.acc).toList.flatMap hexTokens ++ [eomToken]) } := by
  rw [execEnd]
  exact congrArg _ (State.ext_fields (by simp) (by simp) (by simp) (by simp) (by simp) (by simp) (by simp) (by simp))

/-! ## The cycle -/

/-- An output transfer is `POP` of the head, or nothing. -/
theorem outputTransfer_cases (s : State) (p : HostCycle) :
    (s.outputTransfer p = s ∧ (p.outReady = false ∨ s.oq = [])) ∨
      ∃ t ts, p.outReady = true ∧ s.oq = t :: ts ∧
        s.outputTransfer p = { s with oq := ts, received := s.received ++ [t] } := by
  cases h : s.oq with
  | nil => exact .inl ⟨by simp [State.outputTransfer, State.outValid, h], .inr rfl⟩
  | cons t ts =>
    cases hp : p.outReady with
    | false => exact .inl ⟨by simp [State.outputTransfer, hp], .inl rfl⟩
    | true => exact .inr ⟨t, ts, rfl, rfl, by simp [State.outputTransfer, State.outValid, hp, h, State.pop]⟩

/-- A command is accepted exactly when it is offered and four places are free, and it is the head of the stream. -/
theorem accepted_eq_some {s : State} {p : HostCycle} {i : Instr} (h : s.accepted p = some i) :
    p.inValid = true ∧ s.oq.length + 4 ≤ s.cfg.oqDepth ∧
      ∃ w ws, s.cmdStream = w :: ws ∧ decodeCmd s.cfg.charW w = i := by
  unfold State.accepted at h
  split at h
  · rename_i hc
    rw [Bool.and_eq_true] at hc
    refine ⟨hc.1, by simpa [State.inReady] using hc.2, ?_⟩
    cases hs : s.cmdStream with
    | nil => simp [hs] at h
    | cons w ws => exact ⟨w, ws, rfl, by simpa [hs] using h⟩
  · simp at h

/-- Everything a step can do: reset, no command, or one command after the output transfer. -/
theorem step_cases (s : State) :
    (s.pins.rst = true ∧ step s = .next s.tick.resetPin) ∨
      (s.pins.rst = false ∧ s.accepted s.pins = none ∧ step s = .next (s.tick.outputTransfer s.pins)) ∨
      ∃ i, s.pins.rst = false ∧ s.accepted s.pins = some i ∧
        step s = exec i (s.tick.outputTransfer s.pins).consumeCommand := by
  unfold step clockCycle
  cases hr : s.pins.rst with
  | true => exact .inl ⟨rfl, by simp⟩
  | false =>
    cases ha : s.accepted s.pins with
    | none => exact .inr (.inl ⟨rfl, rfl, by simp⟩)
    | some i => exact .inr (.inr ⟨i, rfl, rfl, by simp⟩)

end Sys2Proof.Machine
end

