-- ==== Sys2Proof/Laws/PerInstr.lean ====
section
/-! SUPPORT. Statements for all commands, one lemma per constructor. `EncodeFitsPort`: the word of a well-formed command
fits the `1 + CHAR_W` wires of the port (`30_encoding.md` R60, `20_memory.md` R55). -/

namespace Sys2Proof.Laws.EncodeFitsPort

def Statement (i : Instr) : Prop := ∀ charW : Nat, i.wf charW = true → encode charW i < 2 ^ (charW + 1)

theorem char (c : Nat) : Statement (.char c) := by
  intro charW h
  have hc : c < 2 ^ charW := by simpa [Instr.wf] using h
  simp only [encode, Nat.pow_succ]; omega

theorem endMsg : Statement .endMsg := by
  intro charW _
  simp only [encode, Nat.pow_succ]
  have := Nat.two_pow_pos charW
  omega

end Sys2Proof.Laws.EncodeFitsPort
end

