-- ==== Sys2Proof/Tests/Slice0.lean ====
section
/-! SUPPORT. The model's own tests. Expected values come from `95_test_vectors.md` (the vector is named in each comment)
or are worked out by hand from the rule named; the words to decode are written out bit by bit from `30_encoding.md` R61
and R62. The witnesses at the end show, for each statement with hypotheses, values that meet them together. -/

namespace Sys2Proof.Machine.Tests

/-! ## Helpers -/

/-- The registers, the queue and the trace after a command or a step. -/
def ran (o : Host.Outcome State Fault Refusal) : Option (BitVec 3 × Septet × List Token × List Token) :=
  match o with
  | .next t => some (t.np, t.acc, t.oq, t.out)
  | .fault _ => none
  | .refused _ => none

/-- The streams on the host's side after a step. -/
def hosted (o : Host.Outcome State Fault Refusal) : Option (List Token × List Nat × List HostCycle) :=
  match o with
  | .next t => some (t.received, t.cmdStream, t.cycles)
  | .fault _ => none
  | .refused _ => none

def isNext (o : Host.Outcome State Fault Refusal) : Bool :=
  match o with
  | .next _ => true
  | .fault _ => false
  | .refused _ => false

/-- The reset state with given registers. -/
def pending (np : BitVec 3) (acc : Septet) : State := { State.reset with np := np, acc := acc }

/-- The tables of `95_test_vectors.md` section 2.2, with X = 1, Y = 2, Z = 3 and W = 4. -/
def madeUp : Config :=
  { defaultConfig with
    primary := (((Vector.replicate 128 vacant).set 5 (entry 1)).set 9 (entry 1)).set 27 (entry 2)
    ext := (((Vector.replicate 128 vacant).set 3 (entry 1)).set 27 (entry 3)).set 100 (entry 3) }

/-- A state with the made-up tables, two bits pending, and one command word on the port. -/
def small (oq : List Token) (pins : HostCycle) : State :=
  { cfg := { madeUp with oqDepth := 5 }, np := 2, acc := 3, oq := oq, out := oq, received := [], cmdStream := [3],
    cycles := [pins] }

/-! ## Decoding -/

/-- `CHAR U+0041`, Program 3: bit 21 zero, then the 21 bits of 0x41. -/
theorem test_decode_char : decodeWord 21 0b0000000000000001000001 = .ok (.char 0x41) := by decide

/-- R63: a surrogate value is a legal operand. -/
theorem test_decode_char_surrogate : decodeTableWord 24 0b0000001101100000000000 = some (.char 0xD800) := by decide

/-- R62: the canonical word. -/
theorem test_decode_end : decodeTableWord 24 0b1000000000000000000000 = some .endMsg := by decide

/-- R62: the `char` field of `END` is ignored. -/
theorem test_decode_end_ignores_char : decodeWord 21 0b1000000000000001000001 = .ok .endMsg := by decide

/-- R60, R55: 23 bits do not fit the port of 22 wires. -/
theorem test_decode_too_wide : decodeWord 21 0b10000000000000001000001 = .error .widerThanPort := by decide

/-- R60 at `CHAR_W = 8`: bit 8 is `end`. -/
theorem test_decode_narrow : decodeWord 8 0b001000001 = .ok (.char 0x41) ∧ decodeWord 8 0b101000001 = .ok .endMsg := by
  decide

theorem test_encode : encode 21 (.char 0x20AC) = 0x0020AC ∧ encode 21 .endMsg = 0x200000 := by decide

/-! ## Well-formedness: an ill-formed term for each check -/

theorem test_wf_char_too_wide : (Instr.char (2 ^ 21)).wf 21 = false := by decide
theorem test_wf_char_widest : (Instr.char (2 ^ 21 - 1)).wf 21 = true := by decide
theorem test_wf_line_too_wide : (AsmLine.charCode (2 ^ 21)).wf 21 = false := by decide
theorem test_wf_msg_too_wide : (AsmLine.msg [0x41, 2 ^ 21]).wf 21 = false := by decide
theorem test_wf_config_char_width : Config.wf { defaultConfig with charW := 0 } = false := by decide +kernel
theorem test_wf_config_queue : Config.wf { defaultConfig with oqDepth := 3 } = false := by decide +kernel
theorem test_wf_config_primary_entry :
    Config.wf { defaultConfig with primary := defaultPrimary.set 0 (entry (2 ^ 21)) } = false := by decide +kernel
theorem test_wf_config_ext_entry :
    Config.wf { defaultConfig with ext := defaultExt.set 127 (entry (2 ^ 21)) } = false := by decide +kernel
theorem test_wf_config_carriage_return :
    Config.wf { defaultConfig with primary := defaultPrimary.set 13 vacant } = false := by decide +kernel

/-! ## The stages -/

/-- M20 to M23. -/
theorem test_map_made_up : mapChar madeUp 1 = [5] ∧ mapChar madeUp 2 = [27] ∧ mapChar madeUp 3 = [27, 27] ∧
    mapChar madeUp 4 = [] := by decide +kernel

/-- M1 to M10 and M13, default tables. -/
theorem test_map_default : mapAll defaultConfig [0x41, 0x40, 0x0D, 0xE0] = [0x41, 0x00, 0x0D, 0x7F] ∧
    mapAll defaultConfig [0x20AC, 0x7B, 0x7C, 0x0C] = [0x1B, 0x65, 0x1B, 0x28, 0x1B, 0x40, 0x1B, 0x0A] ∧
    mapAll defaultConfig [0x4E2D, 0x1B, 0x1FFFFF] = [] := by decide +kernel

/-- K1, K2, K5, K8, K9: byte, then `np` and `acc` after. -/
theorem test_pack_steps :
    (packByte 0 0x00 0x68, packNp 0, packAcc 0 0x68) = (none, 7, 0x68) ∧
    (packByte 7 0x68 0x65, packNp 7, packAcc 7 0x65) = (some 0xD1, 6, 0x25) ∧
    (packByte 4 0x0C 0x6F, packNp 4, packAcc 4 0x6F) = (some 0xCD, 3, 0x07) ∧
    (packByte 1 0x01 0x48, packNp 1, packAcc 1 0x48) = (some 0xC8, 0, 0x00) ∧
    (packByte 1 0x00 0x7F, packNp 1, packAcc 1 0x7F) = (some 0x7F, 0, 0x00) := by decide

/-- The single steps of `Flush`, `95_test_vectors.md` section 3. -/
theorem test_flush_steps : flushByte 0 0 = none ∧ flushByte 1 0 = some 0x0D ∧ flushByte 1 1 = some 0x8D ∧
    flushByte 2 3 = some 0xC0 ∧ flushByte 3 7 = some 0xE0 ∧ flushByte 7 0 = some 0x00 ∧ flushByte 6 2 = some 0x08 := by
  decide

/-- P16, P17, P25, and the collision after them. -/
theorem test_pack_all :
    packAll [1, 2, 3, 4, 5, 6, 7] = [0x02, 0x08, 0x18, 0x40, 0xA1, 0x83, 0x8D] ∧
    packAll [1, 2, 3, 4, 5, 6, 7, 8] = [0x02, 0x08, 0x18, 0x40, 0xA1, 0x83, 0x88] ∧
    packAll [0x1B, 0x14, 0x1B, 0x28, 0x1B, 0x29, 0x41] = [0x36, 0x50, 0xDA, 0x83, 0x6A, 0x60, 0x8D] ∧
    packAll [1, 2, 3, 4, 5, 6, 7, 13] = [0x02, 0x08, 0x18, 0x40, 0xA1, 0x83, 0x8D] := by decide

/-- H4, H6, H7, H9. -/
theorem test_hex : hexStr [0x0D, 0x9F, 0xA0, 0xD1] = [0x30, 0x44, 0x39, 0x46, 0x41, 0x30, 0x44, 0x31] := by decide

/-- H4, H6, H7, H9 read back. -/
theorem test_read_hex : readHex [0x30, 0x44, 0x39, 0x46, 0x41, 0x30, 0x44, 0x31] = [0x0D, 0x9F, 0xA0, 0xD1] := by decide

/-- E13, the text `a[1]~`: `C26DE3136F8DBD`. -/
theorem test_encode_text : encodeText defaultConfig [0x61, 0x5B, 0x31, 0x5D, 0x7E] =
    [0x43, 0x32, 0x36, 0x44, 0x45, 0x33, 0x31, 0x33, 0x36, 0x46, 0x38, 0x44, 0x42, 0x44] := by decide +kernel

/-- U4 and U6: unpacking, and looking up an escaped pair. -/
theorem test_unpack : unpack [0x37, 0x94] = [0x1B, 0x65] ∧
    unpack [0x83, 0x0A, 0x1C, 0x48, 0xB1, 0xA3, 0xC8] = [0x41, 0x42, 0x43, 0x44, 0x45, 0x46, 0x47, 0x48] ∧
    lookupSeptets defaultConfig [0x1B, 0x65] = [⟨true, 0x20AC⟩] := by decide +kernel

/-! ## The commands, one step each -/

/-- Program 1, second command: `CHAR 'e'` emits `D`, `1`. -/
theorem test_char_primary :
    ran (exec (.char 0x65) (pending 7 0x68)) = some (6, 0x25, [0x044, 0x031], [0x044, 0x031]) := by decide +kernel

/-- Program 2, third command: the euro sign emits `A`, `4`, `D`, `E`. -/
theorem test_char_extension : ran (exec (.char 0x20AC) (pending 6 0x29)) =
    some (4, 0x05, [0x041, 0x034, 0x044, 0x045], [0x041, 0x034, 0x044, 0x045]) := by decide +kernel

/-- Program 1, last command: `E`, `0`, `EOM`. -/
theorem test_end_zero_fill :
    ran (exec .endMsg (pending 3 0x07)) = some (0, 0, [0x045, 0x030, 0x100], [0x045, 0x030, 0x100]) := by decide

/-- Program 3, last command: the filler `0001101`, so `8`, `D`, `EOM`. -/
theorem test_end_one_bit :
    ran (exec .endMsg (pending 1 0x01)) = some (0, 0, [0x038, 0x044, 0x100], [0x038, 0x044, 0x100]) := by decide

/-! ## Clock cycles -/

/-- R95: at depth 5 a queue of two tokens leaves three places, so the command is held even while one is taken (R163). -/
theorem test_step_hold : hosted (step (small [0x041, 0x042] ⟨false, true, true⟩)) = some ([0x041], [3], []) := by
  decide +kernel

/-- R163: with one token queued the command is accepted and the token taken in the same cycle; Z is 27, 27. -/
theorem test_step_both_transfers : hosted (step (small [0x041] ⟨false, true, true⟩)) = some ([0x041], [], []) := by
  decide +kernel

/-- R180, R163: reset wins, and no transfer happens. -/
theorem test_step_reset : ran (step (small [0x041] ⟨true, true, true⟩)) = some (0, 0, [], [0x041]) ∧
    hosted (step (small [0x041] ⟨true, true, true⟩)) = some ([], [3], []) := by decide +kernel

/-- A presented word runs in the next step, also when the queue was full. -/
theorem test_fetch_word : ran (step ((small [1, 2, 3, 4, 5] HostCycle.idle).withFetchWord 24 0x200000)) =
    some (0, 0, [5, 0x043, 0x030, 0x100], [1, 2, 3, 4, 5, 0x043, 0x030, 0x100]) := by decide +kernel

/-! ## The assembler's lines (R78) -/

theorem test_parse_char : parseLine "CHAR U+20AC ; euro".toList = .ok (some (.charCode 0x20AC)) ∧
    parseLine "CHAR 'A'".toList = .ok (some (.charCode 0x41)) := by decide
theorem test_parse_msg : parseLine ['M', 'S', 'G', ' ', asmQuote, 'H', 'i', asmQuote] = .ok (some (.msg [0x48, 0x69])) ∧
    parseLine ['M', 'S', 'G', ' ', asmQuote, asmQuote] = .ok (some (.msg [])) := by decide
theorem test_parse_other : assemble ["RESET".toList, "; nothing".toList, "END".toList] = .ok [.reset, .command .endMsg] ∧
    parseLine "STOP".toList = .error .unknownKeyword ∧ parseLine "CHAR U+1234567".toList = .error .badOperand ∧
    parseLine "END END".toList = .error .trailingText := by decide

/-! ## Witnesses: the hypotheses of each statement, met together -/

theorem witness_DecodeOfEncodeIsIdentity : (Instr.char (2 ^ 21 - 1)).wf 21 = true ∧ Instr.endMsg.wf 1 = true := by decide

theorem witness_EveryCommandWordHasOneMeaning :
    (2 ^ 21 - 1 < 2 ^ (21 + 1) ∧ (2 ^ 21 - 1).testBit 21 = false) ∧ (2 ^ 21 < 2 ^ (21 + 1) ∧ (2 ^ 21).testBit 21 = true) ∧
    (∀ i, memRead madeUp.primary i ≠ ⟨true, 4⟩) ∧ ∀ j, memRead madeUp.ext j ≠ ⟨true, 4⟩ := by decide +kernel

theorem witness_AssemblerLinesAsWritten : (AsmLine.msg [0x41, 2 ^ 21 - 1]).wf 21 = true ∧
    (AsmLine.charCode 0x41).wf 21 = true ∧ AsmLine.endMsg.wf 21 = true ∧ AsmLine.reset.wf 21 = true := by decide

theorem witness_WiderWordIsRejected : 2 ^ (21 + 1) ≤ 2 ^ 22 := by decide

theorem witness_completion : isNext (exec (.char 3) (small [] HostCycle.idle)) = true ∧
    isNext (exec .endMsg (small [] HostCycle.idle)) = true ∧ isNext (step (small [] HostCycle.idle)) = true := by
  decide +kernel

theorem witness_DefaultExtAsListedAndNoDuplicates : defaultConfig.wf = true := by decide +kernel

theorem witness_MapTakesPrimaryThenExtensionThenDrops :
    memRead madeUp.primary 5 = ⟨true, 1⟩ ∧
    ((∀ i, memRead madeUp.primary i ≠ ⟨true, 3⟩) ∧ memRead madeUp.ext 27 = ⟨true, 3⟩) ∧
    ((∀ i, memRead madeUp.primary i ≠ ⟨true, 4⟩) ∧ ∀ j, memRead madeUp.ext j ≠ ⟨true, 4⟩) := by decide +kernel

/-- Also the witness of `DroppedCharacterIsInvisible` and of the last clause of `EmptyMessage`. -/
theorem witness_DroppedCharacterIsInvisible :
    (∀ i, memRead defaultPrimary i ≠ ⟨true, 0x4E2D⟩) ∧ ∀ j, memRead defaultExt j ≠ ⟨true, 0x4E2D⟩ := by decide +kernel

theorem witness_CharEffect :
    (find madeUp.primary 1 = some 5 ∧ (pending 0 0).np = 0) ∧
    (find madeUp.primary 2 = some 27 ∧ (pending 1 1).np ≠ 0) ∧
    (find madeUp.primary 3 = none ∧ find madeUp.ext 3 = some 27 ∧ (pending 1 1).np = 1 ∧ 2 ≤ (pending 2 3).np.toNat) ∧
    (find madeUp.primary 4 = none ∧ find madeUp.ext 4 = none) := by decide +kernel

theorem witness_EndEffect : (pending 0 0).np = 0 ∧ (pending 1 1).np = 1 ∧ 2 ≤ (pending 2 3).np.toNat ∧
    2 ≤ (pending 7 0x7F).np.toNat := by decide

/-- Also of `PackKeepsTheBitStream`. -/
theorem witness_PackArithmetic :
    ((1 : BitVec 3) ≠ 0 ∧ (1 : Septet).toNat < 2 ^ (1 : BitVec 3).toNat) ∧
    ((7 : BitVec 3) ≠ 0 ∧ (0x7F : Septet).toNat < 2 ^ (7 : BitVec 3).toNat) ∧
    ((0 : Septet).toNat < 2 ^ (0 : BitVec 3).toNat) ∧
    ((3 : Septet).toNat < 2 ^ (2 : BitVec 3).toNat ∧ 2 ≤ (2 : BitVec 3).toNat) := by decide

theorem witness_FinalByteIsLeftoverBitsThenFiller : 7 * ([] : List Septet).length % 8 = 0 ∧
    7 * [1, 2, 3, 4, 5, 6, (7 : Septet)].length % 8 = 1 ∧ 2 ≤ 7 * [1, 2, 3, 4, 5, (6 : Septet)].length % 8 ∧
    2 ≤ 7 * [(1 : Septet)].length % 8 := by decide

theorem witness_BitOrderOfSeptetsAndBytes : 6 < 7 ∧ 7 < 8 ∧ 0 < (packAll [0x7F]).length := by decide

theorem witness_FillerCollidesWithCarriageReturn :
    [1, 2, 3, 4, 5, 6, (7 : Septet)].length % 8 = 7 ∧ defaultConfig.wf = true ∧
    (∀ j : Septet, j.toNat < 13 → memRead defaultPrimary j ≠ ⟨true, 0x0D⟩) ∧
    (mapAll defaultConfig [0x41, 0x42, 0x43, 0x44, 0x45, 0x46, 0x47]).length % 8 = 7 := by decide +kernel

theorem witness_DigitCodesAsListed : (9 : Nibble).toNat ≤ 9 ∧ 10 ≤ (10 : Nibble).toNat := by decide

theorem witness_HexStringDeterminesBytes : hexStr [0xD1, 0x97] = hexStr [0xD1, 0x97] := by decide

/-- Also of `EmptyMessage` and `PhaseOfThePacker`'s start. -/
theorem witness_WholeMessageLaw : State.reset.np = 0 ∧ State.reset.acc = 0 := by decide

theorem witness_MessageReadsBack : (memRead defaultPrimary 27).valid = false := by decide +kernel

/-- Two blocks of one configuration with different bits pending, and the states their `END`s give. -/
theorem witness_EndSeparatesMessages : (pending 1 1).cfg = (pending 6 2).cfg ∧
    isNext (exec .endMsg (pending 1 1)) = true ∧ isNext (exec .endMsg (pending 6 2)) = true := by decide +kernel

theorem witness_QueueNeverChangesTokens :
    (small [] HostCycle.idle).cfg.primary = (small [1] HostCycle.idle).cfg.primary ∧
    (small [] HostCycle.idle).cfg.ext = (small [1] HostCycle.idle).cfg.ext ∧
    (small [] HostCycle.idle).np = (small [1] HostCycle.idle).np ∧
    (small [] HostCycle.idle).acc = (small [1] HostCycle.idle).acc := by decide +kernel

theorem witness_ResetPinWins : (small [1] ⟨true, true, true⟩).cycles = [⟨true, true, true⟩] := by decide

theorem witness_StepRunsTheDecodedCommand :
    ((small [1] ⟨false, true, false⟩).oq.length + 4 ≤ (small [1] ⟨false, true, false⟩).cfg.oqDepth ∧
      (small [1] ⟨false, true, false⟩).cmdStream = [3] ∧ decodeWord 21 3 = .ok (.char 3)) ∧
    (small [] ⟨false, true, true⟩).oq = [] ∧
    (small [1] ⟨false, true, true⟩).oq.length + 4 ≤ (small [1] ⟨false, true, true⟩).cfg.oqDepth := by decide

/-- A queue of two tokens at depth 5 leaves three places; also of `HoldLiftsOnlyByTransferOrReset`. -/
theorem witness_CycleWithoutCommand :
    ((small [1, 2] ⟨false, true, false⟩).cfg.oqDepth < (small [1, 2] ⟨false, true, false⟩).oq.length + 4 ∧
      (small [1, 2] ⟨false, true, false⟩).cycles = [⟨false, true, false⟩]) ∧
    (small [1] ⟨false, false, true⟩).cycles = [⟨false, false, true⟩] ∧ State.reset.cycles = [] := by decide

theorem witness_OfferedTokenHoldsUntilTaken :
    (small [1] ⟨false, true, false⟩).outTok = some 1 ∧ (small [1] ⟨false, true, false⟩).pins.rst = false ∧
    isNext (step (small [1] ⟨false, true, false⟩)) = true ∧ (small [1] ⟨false, true, false⟩).pins.outReady = false ∧
    (small [1] ⟨false, true, true⟩).pins.outReady = true := by decide +kernel

theorem witness_PresentedWordRunsNext : 4 ≤ (small [1, 2, 3] HostCycle.idle).cfg.oqDepth ∧ 0x200000 < 2 ^ 24 ∧
    decodeWord 21 0x200000 = .ok .endMsg ∧ decodeTableWord 24 0x200000 = some .endMsg := by decide

/-- A state of the invariant with bits pending and a token queued; also of `NoTokenIsLostWithoutReset`. -/
theorem witness_StepKeepsInvariant : (small [hexToken 0x41] ⟨false, true, true⟩).Inv ∧
    (small [hexToken 0x41] ⟨false, true, true⟩).traceWhole ∧
    (small [hexToken 0x41] ⟨false, true, true⟩).pins.rst = false ∧
    isNext (step (small [hexToken 0x41] ⟨false, true, true⟩)) = true :=
  ⟨⟨by decide, by decide, by decide, by decide⟩, by decide, by decide, by decide +kernel⟩

theorem witness_ClockedRunIsACommandRun : isNext (runSteps 1 (small [1] ⟨false, true, true⟩)) = true := by
  decide +kernel

/-- The state of `DeepQueueTakesWholeMessage` for the text X Z of the made-up tables, at the least depth. -/
theorem witness_DeepQueueTakesWholeMessage :
    ∃ s : State, s.np = 0 ∧ s.acc = 0 ∧ s.oq = [] ∧ (∀ c ∈ [1, 3], c < 2 ^ s.cfg.charW) ∧
      2 * (7 * [1, 3].length / 4) + 4 ≤ s.cfg.oqDepth ∧ s.cmdStream = msgWords s.cfg.charW [1, 3] ∧
      s.cycles = List.replicate ([1, 3].length + 1) ⟨false, true, false⟩ :=
  ⟨{ State.reset with
      cfg := { madeUp with oqDepth := 10 }, cmdStream := [1, 3, 0x200000]
      cycles := List.replicate 3 ⟨false, true, false⟩ }, by decide, by decide, by decide, by decide, by decide, by decide,
    by decide⟩

theorem witness_DrainedQueueAcceptsACommand :
    ∃ s : State, 4 ≤ s.cfg.oqDepth ∧ s.queueFits ∧ s.cmdStream ≠ [] ∧
      s.cycles.take 5 = List.replicate 5 ⟨false, true, true⟩ :=
  ⟨{ small [1, 2, 3, 4, 5] HostCycle.idle with cycles := List.replicate 5 ⟨false, true, true⟩ }, by decide, by decide,
    by decide, by decide⟩

theorem witness_DrainingHostReceivesWholeMessage :
    ∃ s : State, s.np = 0 ∧ s.acc = 0 ∧ s.oq = [] ∧ (∀ c ∈ [1, 3], c < 2 ^ s.cfg.charW) ∧ 4 ≤ s.cfg.oqDepth ∧
      s.cmdStream = msgWords s.cfg.charW [1, 3] ∧
      s.cycles = List.replicate (5 * ([1, 3].length + 1)) ⟨false, true, true⟩ :=
  ⟨{ State.reset with
      cfg := madeUp, cmdStream := [1, 3, 0x200000], cycles := List.replicate 15 ⟨false, true, true⟩ },
    by decide, by decide, by decide, by decide, by decide, by decide, by decide⟩

end Sys2Proof.Machine.Tests
end

/-! # The configuration is fixed (`00_scope.md` R6)

One lemma per kind of transition: a command, a clock cycle, a transition of the host. -/

namespace Sys2Proof.Machine

/-- Both commands answer a record update of the registers, the queue and the trace alone. -/
theorem exec_keeps_cfg {i : Instr} {s t : State} (h : exec i s = .next t) : t.cfg = s.cfg := by
  cases i with
  | char c =>
    rw [exec, execChar_eq] at h
    cases h
    rfl
  | endMsg =>
    rw [exec, execEnd_eq] at h
    cases h
    rfl

theorem step_keeps_cfg {s t : State} (h : step s = .next t) : t.cfg = s.cfg := by
  obtain ⟨-, hstep⟩ | ⟨-, -, hstep⟩ | ⟨i, -, -, hstep⟩ := step_cases s <;> rw [hstep] at h
  · cases h
    simp
  · cases h
    simp
  · simpa using exec_keeps_cfg h

theorem act_keeps_cfg {a : HostAction} {s t : State} (h : act a s = .next t) : t.cfg = s.cfg := by
  cases a with
  | command i => exact exec_keeps_cfg h
  | pop =>
    cases h
    exact s.pop_cfg
  | reset =>
    cases h
    exact s.resetPin_cfg

/-- Settles O8: commands, clock cycles and host transitions each keep the field `cfg`. -/
theorem configurationNeverChanges : Obligations.ConfigurationNeverChanges :=
  ⟨fun _ _ _ => exec_keeps_cfg, fun _ _ => step_keeps_cfg, fun _ _ _ => act_keeps_cfg⟩

end Sys2Proof.Machine

/-! # The state's invariant and the queue (`10_state.md`)

A command reads the tables and the registers and nothing else: it answers new registers and some tokens, which it
appends to the queue and to the trace alike. What a clock cycle keeps follows from facts about those two results, about
the output transfer and about reset. -/

namespace Sys2Proof.Machine

/-! ## What a command makes of the registers -/

/-- The tokens a command emits, from the tables and the registers alone. -/
def commandTokens (k : Config) (np : BitVec 3) (acc : Septet) : Instr → List Token
  | .char c => (packRun np acc (mapChar k c)).1.flatMap hexTokens
  | .endMsg => (flushByte np acc).toList.flatMap hexTokens ++ [eomToken]

/-- The registers `np` and `acc` a command leaves. -/
def commandRegs (k : Config) (np : BitVec 3) (acc : Septet) : Instr → BitVec 3 × Septet
  | .char c => (packRun np acc (mapChar k c)).2
  | .endMsg => (0, 0)

/-- Everything a command does: it sets the registers and appends the same tokens to the queue and to the trace. -/
theorem exec_eq (i : Instr) (s : State) :
    exec i s = .next
      { s with
        np := (commandRegs s.cfg s.np s.acc i).1
        acc := (commandRegs s.cfg s.np s.acc i).2
        oq := s.oq ++ commandTokens s.cfg s.np s.acc i
        out := s.out ++ commandTokens s.cfg s.np s.acc i } := by
  cases i with
  | char c => exact execChar_eq c s
  | endMsg => exact execEnd_eq s

/-! ### The registers keep `acc < 2^np` (R22) -/

theorem packNp_toNat {np : BitVec 3} (h : np ≠ 0) : (packNp np).toNat = np.toNat - 1 := by
  have hpos : 1 ≤ np.toNat := Nat.one_le_iff_ne_zero.2 fun h0 => h (BitVec.eq_of_toNat_eq h0)
  simp only [packNp, if_neg h]
  bv_omega

/-- `Pack` leaves a septet of at most 7 bits at `np = 7`, and otherwise one masked to `np` bits. -/
theorem packAcc_lt (np : BitVec 3) (x : Septet) : (packAcc np x).toNat < 2 ^ (packNp np).toNat := by
  by_cases h : np = 0
  · subst h
    exact x.isLt
  · rw [packNp_toNat h, packAcc, if_neg h, BitVec.toNat_and, BitVec.toNat_ofNat]
    calc x.toNat &&& ((2 ^ (np.toNat - 1) - 1) % 2 ^ 7)
        ≤ (2 ^ (np.toNat - 1) - 1) % 2 ^ 7 := Nat.and_le_right
      _ ≤ 2 ^ (np.toNat - 1) - 1 := Nat.mod_le _ _
      _ < 2 ^ (np.toNat - 1) := Nat.sub_one_lt (Nat.two_pow_pos _).ne'

theorem packRun_acc_lt (xs : List Septet) {np : BitVec 3} {acc : Septet} (h : acc.toNat < 2 ^ np.toNat) :
    (packRun np acc xs).2.2.toNat < 2 ^ (packRun np acc xs).2.1.toNat := by
  induction xs generalizing np acc with
  | nil => exact h
  | cons x xs ih => exact ih (packAcc_lt np x)

theorem commandRegs_acc_lt (k : Config) {np : BitVec 3} {acc : Septet} (h : acc.toNat < 2 ^ np.toNat) (i : Instr) :
    (commandRegs k np acc i).2.toNat < 2 ^ (commandRegs k np acc i).1.toNat := by
  cases i with
  | char c => exact packRun_acc_lt (mapChar k c) h
  | endMsg => simp [commandRegs]

/-! ### At most four tokens (R95) -/

@[simp] theorem length_flatMap_hexTokens (bs : List Byte) : (bs.flatMap hexTokens).length = 2 * bs.length := by
  induction bs with
  | nil => rfl
  | cons b bs ih => simp [hexTokens, ih]; omega

theorem packRun_length_le (np : BitVec 3) (acc : Septet) (xs : List Septet) :
    (packRun np acc xs).1.length ≤ xs.length := by
  induction xs generalizing np acc with
  | nil => simp
  | cons x xs ih =>
    have hbyte : (packByte np acc x).toList.length ≤ 1 := Option.length_toList_le
    have htail := ih (packNp np) (packAcc np x)
    simp only [packRun_cons, List.length_append, List.length_cons]
    omega

theorem commandTokens_length_le (k : Config) (np : BitVec 3) (acc : Septet) (i : Instr) :
    (commandTokens k np acc i).length ≤ 4 := by
  cases i with
  | char c =>
    have hbytes := packRun_length_le np acc (mapChar k c)
    have hseptets := mapChar_length_le k c
    simp only [commandTokens, length_flatMap_hexTokens]
    omega
  | endMsg =>
    have hbyte : (flushByte np acc).toList.length ≤ 1 := Option.length_toList_le
    simp only [commandTokens, List.length_append, length_flatMap_hexTokens, List.length_singleton]
    omega

/-! ### Only legal tokens (R66, R67) -/

theorem digit_mem_digitCodes (n : Nibble) : digit n ∈ digitCodes := by
  revert n
  decide

/-- A rendered byte string is digits only. -/
theorem exists_digit_of_mem_flatMap_hexTokens {bs : List Byte} {t : Token} (h : t ∈ bs.flatMap hexTokens) :
    ∃ d ∈ digitCodes, t = hexToken d := by
  obtain ⟨b, -, hb⟩ := List.mem_flatMap.1 h
  obtain rfl | rfl : t = hexToken (digit (highNibble b)) ∨ t = hexToken (digit (lowNibble b)) := by
    simpa [hexTokens] using hb
  · exact ⟨_, digit_mem_digitCodes _, rfl⟩
  · exact ⟨_, digit_mem_digitCodes _, rfl⟩

theorem commandTokens_legal (k : Config) (np : BitVec 3) (acc : Septet) (i : Instr) :
    ∀ t ∈ commandTokens k np acc i, legalToken t := by
  intro t ht
  cases i with
  | char c => exact .inr (exists_digit_of_mem_flatMap_hexTokens ht)
  | endMsg =>
    obtain hbyte | heom := List.mem_append.1 ht
    · exact .inr (exists_digit_of_mem_flatMap_hexTokens hbyte)
    · exact .inl (List.mem_singleton.1 heom)

/-! ## The output transfer moves a token, it loses none -/

theorem outputTransfer_received_append_oq (s : State) (p : HostCycle) :
    (s.outputTransfer p).received ++ (s.outputTransfer p).oq = s.received ++ s.oq := by
  obtain ⟨hstay, -⟩ | ⟨t, ts, -, hoq, htake⟩ := outputTransfer_cases s p
  · rw [hstay]
  · simp [htake, hoq]

theorem outputTransfer_oq_length_le (s : State) (p : HostCycle) :
    (s.outputTransfer p).oq.length ≤ s.oq.length := by
  simp [State.outputTransfer_eq]

/-! ## The invariant

`tick` and `consumeCommand` touch no field the invariant reads. -/

theorem State.Inv.tick {s : State} (h : s.Inv) : s.tick.Inv :=
  ⟨h.accFits, h.queueFits, h.traceLegal, h.traceOrdered⟩

theorem State.Inv.consumeCommand {s : State} (h : s.Inv) : s.consumeCommand.Inv :=
  ⟨h.accFits, h.queueFits, h.traceLegal, h.traceOrdered⟩

theorem State.Inv.outputTransfer {s : State} (h : s.Inv) (p : HostCycle) : (s.outputTransfer p).Inv where
  accFits := by simpa using h.accFits
  queueFits := by simpa using (outputTransfer_oq_length_le s p).trans h.queueFits
  traceLegal := by simpa only [State.traceLegal, State.outputTransfer_out] using h.traceLegal
  traceOrdered := by simpa only [State.traceOrdered, outputTransfer_received_append_oq, State.outputTransfer_out]
    using h.traceOrdered

/-- Reset drops the queued tokens, so what is left of the order is a part of it. -/
theorem State.Inv.resetPin {s : State} (h : s.Inv) : s.resetPin.Inv where
  accFits := by simp
  queueFits := by simp
  traceLegal := h.traceLegal
  traceOrdered := by
    simpa [State.traceOrdered] using (List.sublist_append_left s.received s.oq).trans h.traceOrdered

/-- Four free places are enough for a command's tokens (R95), and these go to the end of queue and trace alike. -/
theorem State.Inv.exec {i : Instr} {s t : State} (h : s.Inv) (hroom : s.oq.length + 4 ≤ s.cfg.oqDepth)
    (ht : exec i s = .next t) : t.Inv := by
  rw [exec_eq] at ht
  cases ht
  have hlen := commandTokens_length_le s.cfg s.np s.acc i
  exact
    { accFits := commandRegs_acc_lt s.cfg h.accFits i
      queueFits := by
        simp only [State.queueFits, List.length_append]
        omega
      traceLegal := List.forall_mem_append.2 ⟨h.traceLegal, commandTokens_legal s.cfg s.np s.acc i⟩
      traceOrdered := by
        simpa only [State.traceOrdered, List.append_assoc] using h.traceOrdered.append_right _ }

/-- Settles O46: the three cases of a clock cycle are reset, an output transfer, and an output transfer before a command
that was accepted because four places were free. -/
theorem stepKeepsInvariant : Obligations.StepKeepsInvariant := by
  intro s t h ht
  obtain ⟨-, hstep⟩ | ⟨-, -, hstep⟩ | ⟨i, -, haccepted, hstep⟩ := step_cases s <;> rw [hstep] at ht
  · cases ht
    exact h.tick.resetPin
  · cases ht
    exact h.tick.outputTransfer s.pins
  · obtain ⟨-, hroom, -⟩ := accepted_eq_some haccepted
    refine (h.tick.outputTransfer s.pins).consumeCommand.exec ?_ ht
    have hlen := outputTransfer_oq_length_le s.tick s.pins
    simp only [State.tick_oq] at hlen
    simp only [State.consumeCommand_oq, State.consumeCommand_cfg, State.outputTransfer_cfg, State.tick_cfg]
    omega

/-- Settles O45: nothing is pending, queued, emitted or received. -/
theorem invariantAtReset : Obligations.InvariantAtReset where
  accFits := by decide
  queueFits := Nat.zero_le _
  traceLegal := List.forall_mem_nil _
  traceOrdered := List.Sublist.refl []

/-! ## The whole trace -/

theorem exec_keeps_traceWhole {i : Instr} {s t : State} (h : s.traceWhole) (ht : exec i s = .next t) :
    t.traceWhole := by
  rw [exec_eq] at ht
  cases ht
  simp only [State.traceWhole, ← List.append_assoc, h]

theorem outputTransfer_keeps_traceWhole {s : State} (h : s.traceWhole) (p : HostCycle) :
    (s.outputTransfer p).traceWhole := by
  rw [State.traceWhole, outputTransfer_received_append_oq, State.outputTransfer_out, h]

theorem step_keeps_traceWhole {s t : State} (h : s.traceWhole) (hreset : s.pins.rst = true → s.oq = [])
    (ht : step s = .next t) : t.traceWhole := by
  have htick : s.tick.traceWhole := h
  obtain ⟨hrst, hstep⟩ | ⟨-, -, hstep⟩ | ⟨i, -, -, hstep⟩ := step_cases s <;> rw [hstep] at ht
  · cases ht
    simpa [State.traceWhole, hreset hrst] using h
  · cases ht
    exact outputTransfer_keeps_traceWhole htick s.pins
  · have hconsume : (s.tick.outputTransfer s.pins).consumeCommand.traceWhole :=
      outputTransfer_keeps_traceWhole htick s.pins
    exact exec_keeps_traceWhole hconsume ht

/-- Settles O47: the trace stays whole in each case of a clock cycle, and then the queue is what `received` lacks of
it. -/
theorem noTokenIsLostWithoutReset : Obligations.NoTokenIsLostWithoutReset := by
  intro s t h hreset ht
  have hwhole := step_keeps_traceWhole h hreset ht
  exact ⟨hwhole, t.oq, hwhole⟩

/-! ## Commands do not see the queue -/

/-- Two states that hold the same tables and the same registers, which is all a command reads. -/
structure SameTablesAndRegs (s₁ s₂ : State) : Prop where
  primary : s₁.cfg.primary = s₂.cfg.primary
  ext : s₁.cfg.ext = s₂.cfg.ext
  np : s₁.np = s₂.np
  acc : s₁.acc = s₂.acc

theorem mapChar_congr {k₁ k₂ : Config} (hp : k₁.primary = k₂.primary) (he : k₁.ext = k₂.ext) (c : Nat) :
    mapChar k₁ c = mapChar k₂ c := by
  simp only [mapChar, hp, he]

theorem SameTablesAndRegs.commandTokens_eq {s₁ s₂ : State} (h : SameTablesAndRegs s₁ s₂) (i : Instr) :
    commandTokens s₁.cfg s₁.np s₁.acc i = commandTokens s₂.cfg s₂.np s₂.acc i := by
  cases i with
  | char c => simp only [commandTokens, mapChar_congr h.primary h.ext, h.np, h.acc]
  | endMsg => simp only [commandTokens, h.np, h.acc]

theorem SameTablesAndRegs.commandRegs_eq {s₁ s₂ : State} (h : SameTablesAndRegs s₁ s₂) (i : Instr) :
    commandRegs s₁.cfg s₁.np s₁.acc i = commandRegs s₂.cfg s₂.np s₂.acc i := by
  cases i with
  | char c => simp only [commandRegs, mapChar_congr h.primary h.ext, h.np, h.acc]
  | endMsg => rfl

/-- One command completes in both states with the same tokens and leaves them alike. -/
theorem SameTablesAndRegs.exec {s₁ s₂ : State} (h : SameTablesAndRegs s₁ s₂) (i : Instr) :
    ∃ (t₁ t₂ : State) (ts : List Token), exec i s₁ = .next t₁ ∧ exec i s₂ = .next t₂ ∧
      t₁.out = s₁.out ++ ts ∧ t₂.out = s₂.out ++ ts ∧ SameTablesAndRegs t₁ t₂ :=
  ⟨_, _, commandTokens s₁.cfg s₁.np s₁.acc i, exec_eq i s₁, exec_eq i s₂, rfl, by rw [h.commandTokens_eq],
    { primary := h.primary
      ext := h.ext
      np := congrArg Prod.fst (h.commandRegs_eq i)
      acc := congrArg Prod.snd (h.commandRegs_eq i) }⟩

theorem runCommands_cons {i : Instr} {s t : State} (h : exec i s = .next t) (is : List Instr) :
    runCommands (i :: is) s = runCommands is t := by
  simp only [runCommands, h]

/-- A sequence of commands completes in both states with the same tokens and leaves them alike. -/
theorem SameTablesAndRegs.runCommands (is : List Instr) {s₁ s₂ : State} (h : SameTablesAndRegs s₁ s₂) :
    ∃ (u₁ u₂ : State) (ts : List Token), runCommands is s₁ = .next u₁ ∧ runCommands is s₂ = .next u₂ ∧
      u₁.out = s₁.out ++ ts ∧ u₂.out = s₂.out ++ ts ∧ SameTablesAndRegs u₁ u₂ := by
  induction is generalizing s₁ s₂ with
  | nil => exact ⟨s₁, s₂, [], rfl, rfl, by simp, by simp, h⟩
  | cons i is ih =>
    obtain ⟨t₁, t₂, ts, hexec₁, hexec₂, hout₁, hout₂, hsame⟩ := h.exec i
    obtain ⟨u₁, u₂, us, hrun₁, hrun₂, hend₁, hend₂, hlast⟩ := ih hsame
    exact ⟨u₁, u₂, ts ++ us, by rw [runCommands_cons hexec₁, hrun₁], by rw [runCommands_cons hexec₂, hrun₂],
      by rw [hend₁, hout₁, List.append_assoc], by rw [hend₂, hout₂, List.append_assoc], hlast⟩

/-- Settles O37, by induction on the commands: having the same tables and registers is kept by each. -/
theorem queueNeverChangesTokens : Obligations.QueueNeverChangesTokens := by
  intro is s₁ s₂ hprimary hext hnp hacc
  obtain ⟨u₁, u₂, ts, hrun₁, hrun₂, hout₁, hout₂, hsame⟩ :=
    SameTablesAndRegs.runCommands is ⟨hprimary, hext, hnp, hacc⟩
  exact ⟨u₁, u₂, ts, hrun₁, hrun₂, hout₁, hout₂, hsame.np, hsame.acc⟩

/-- Settles O38: the three fields as `State.reset` writes them. -/
theorem resetStateAsStated : Obligations.ResetStateAsStated := ⟨rfl, rfl, rfl⟩

end Sys2Proof.Machine

/-! # The tables, the two interfaces and order (`20_memory.md`)

The content search of the tables, the order of bits in the stream and in the bytes, the handshakes of one clock cycle,
and the run of the clock as a run of atomic transitions in program order. -/

namespace Sys2Proof.Machine

/-! ## The content search (R43) -/

/-- Every index of a table fits a septet, so nothing is lost when `find` makes one of it. -/
theorem find_eq_some_iff_findIdx? (t : Table) (c : Nat) (i : Septet) :
    find t c = some i ↔ t.toList.findIdx? (fun e => decide (e = TableEntry.mk true c)) = some i.toNat := by
  rw [find, Option.map_eq_some_iff]
  constructor
  · rintro ⟨n, hn, rfl⟩
    obtain ⟨hlt, -⟩ := List.findIdx?_eq_some_iff_getElem.1 hn
    have hn128 : n < 2 ^ 7 := by simpa using hlt
    rwa [BitVec.toNat_ofNat, Nat.mod_eq_of_lt hn128]
  · exact fun h => ⟨i.toNat, h, by simp⟩

theorem find_eq_some_iff (t : Table) (c : Nat) (i : Septet) :
    find t c = some i ↔
      memRead t i = ⟨true, c⟩ ∧ ∀ j : Septet, j.toNat < i.toNat → memRead t j ≠ ⟨true, c⟩ := by
  have hi : i.toNat < t.toList.length := by simpa using i.isLt
  simp only [find_eq_some_iff_findIdx?, List.findIdx?_eq_some_iff_getElem, memRead_eq_toList, decide_eq_true_eq, hi,
    exists_true_left]
  exact and_congr_right fun _ =>
    ⟨fun h j hj => h j.toNat hj, fun h n hn => h (BitVec.ofNatLT n (hn.trans i.isLt)) hn⟩

theorem find_eq_none_iff (t : Table) (c : Nat) : find t c = none ↔ ∀ i : Septet, memRead t i ≠ ⟨true, c⟩ := by
  rw [find, Option.map_eq_none_iff, List.findIdx?_eq_none_iff]
  simp only [decide_eq_false_iff_not, memRead_eq_toList]
  constructor
  · exact fun h i => h _ (List.getElem_mem _)
  · intro h e he
    obtain ⟨n, hn, rfl⟩ := List.getElem_of_mem he
    have hn128 : n < 2 ^ 7 := by simpa using hn
    exact h (BitVec.ofNatLT n hn128)

/-- Settles O7: `find` searches from index 0 up, and every index of a table is a septet. -/
theorem findGivesLeastIndex : Obligations.FindGivesLeastIndex :=
  fun t c => ⟨find_eq_some_iff t c, find_eq_none_iff t c⟩

/-! ## The order of bits (R44, R45) -/

/-- When every element contributes `n` entries, entry `q` of the contribution of element `m` stands at `n * m + q`. -/
theorem getElem?_flatMap_of_length_eq {α β : Type*} {f : α → List β} {n : Nat} (hf : ∀ a, (f a).length = n)
    {q : Nat} (hq : q < n) (l : List α) (m : Nat) :
    (l.flatMap f)[n * m + q]? = l[m]?.bind fun a => (f a)[q]? := by
  induction l generalizing m with
  | nil => rfl
  | cons a l ih =>
    cases m with
    | zero => simp [List.getElem?_append_left, hf, hq]
    | succ m =>
      have hshift : n * (m + 1) + q - n = n * m + q := by rw [Nat.mul_succ]; omega
      rw [List.flatMap_cons, List.getElem?_append_right (by rw [hf, Nat.mul_succ]; omega), hf, hshift, ih,
        List.getElem?_cons_succ]

theorem getElem?_septetBits (s : Septet) {q : Nat} (hq : q < 7) : (septetBits s)[q]? = some (s.getLsbD (6 - q)) := by
  interval_cases q <;> rfl

theorem getElem?_byteBits (b : Byte) {q : Nat} (hq : q < 8) : (byteBits b)[q]? = some (b.getLsbD (7 - q)) := by
  interval_cases q <;> rfl

theorem getElem?_bitStream (ss : List Septet) (m : Nat) {q : Nat} (hq : q < 7) :
    (bitStream ss)[7 * m + q]? = ss[m]?.map fun s => s.getLsbD (6 - q) := by
  rw [bitStream, getElem?_flatMap_of_length_eq (n := 7) (fun _ => rfl) hq, Option.map_eq_bind]
  simp only [getElem?_septetBits _ hq, Function.comp_def]

theorem getElem?_flatMap_byteBits (bs : List Byte) (j : Nat) {q : Nat} (hq : q < 8) :
    (bs.flatMap byteBits)[8 * j + q]? = bs[j]?.map fun b => b.getLsbD (7 - q) := by
  rw [getElem?_flatMap_of_length_eq (n := 8) (fun _ => rfl) hq, Option.map_eq_bind]
  simp only [getElem?_byteBits _ hq, Function.comp_def]

/-- The first of eight bits goes to bit 7, the last to bit 0. -/
theorem byteBits_ofNat_bitsValue (b7 b6 b5 b4 b3 b2 b1 b0 : Bool) :
    byteBits (BitVec.ofNat 8 (bitsValue [b7, b6, b5, b4, b3, b2, b1, b0])) = [b7, b6, b5, b4, b3, b2, b1, b0] := by
  revert b7 b6 b5 b4 b3 b2 b1 b0
  decide

/-- Cutting bits into bytes keeps them in order; at most the last bits, short of a byte, are left out. -/
theorem flatMap_byteBits_bytesOfBits (bits : List Bool) : (bytesOfBits bits).flatMap byteBits <+: bits := by
  induction bits using bytesOfBits.induct with
  | case1 b7 b6 b5 b4 b3 b2 b1 b0 rest ih =>
    rw [bytesOfBits, List.flatMap_cons, byteBits_ofNat_bitsValue]
    exact (List.prefix_append_right_inj [b7, b6, b5, b4, b3, b2, b1, b0]).2 ih
  | case2 bits hshort =>
    rw [bytesOfBits.eq_2 _ hshort]
    exact List.nil_prefix

theorem getElem?_of_lt_length_bytesOfBits (bits : List Bool) {j q : Nat} (hq : q < 8)
    (hj : j < (bytesOfBits bits).length) :
    bits[8 * j + q]? = (bytesOfBits bits)[j]?.map fun b => b.getLsbD (7 - q) := by
  have hbit := getElem?_flatMap_byteBits (bytesOfBits bits) j hq
  rw [List.getElem?_eq_getElem hj, Option.map_some] at hbit ⊢
  obtain ⟨hlt, hval⟩ := List.getElem?_eq_some_iff.1 hbit
  rw [List.prefix_iff_getElem?.1 (flatMap_byteBits_bytesOfBits bits) _ hlt, hval]

/-- Settles O25: septets stand in the stream seven bits each, and the bytes cut from the completed stream eight bits
each. -/
theorem bitOrderOfSeptetsAndBytes : Obligations.BitOrderOfSeptetsAndBytes :=
  fun ss => ⟨fun m _ hq => getElem?_bitStream ss m hq, fun _ _ hq hj => getElem?_of_lt_length_bytesOfBits _ hq hj⟩

/-! ## The handshakes of one cycle (R55) -/

/-- A command appends to the queue and leaves the tokens delivered alone. -/
theorem exec_oq_received {i : Instr} {s t : State} (h : exec i s = .next t) :
    s.oq <+: t.oq ∧ t.received = s.received := by
  rw [exec_eq] at h
  cases h
  exact ⟨List.prefix_append _ _, rfl⟩

/-- In a cycle without reset the output transfer alone takes from the queue and delivers to the host. -/
theorem step_oq_received {s t : State} (hrst : s.pins.rst = false) (h : step s = .next t) :
    (s.outputTransfer s.pins).oq <+: t.oq ∧ t.received = (s.outputTransfer s.pins).received := by
  obtain ⟨hreset, -⟩ | ⟨-, -, hstep⟩ | ⟨i, -, -, hstep⟩ := step_cases s
  · simp [hrst] at hreset
  · rw [hstep] at h
    cases h
    simp [State.outputTransfer_eq]
  · rw [hstep] at h
    simpa [State.outputTransfer_eq] using exec_oq_received h

/-- Settles O43: without a transfer the head of the queue stays its head, and a transfer delivers just it. -/
theorem offeredTokenHoldsUntilTaken : Obligations.OfferedTokenHoldsUntilTaken := by
  intro s t x hoffer hrst hstep
  obtain ⟨ts, hoq⟩ := List.head?_eq_some_iff.1 hoffer
  obtain ⟨⟨new, hkept⟩, hreceived⟩ := step_oq_received hrst hstep
  rw [State.outputTransfer_eq] at hkept hreceived
  refine ⟨fun hready => ?_, fun hready => ?_⟩
  · have hkept : x :: ts ++ new = t.oq := by simpa [hready, hoq] using hkept
    exact ⟨by simp [State.outTok, ← hkept], by simpa [hready] using hreceived⟩
  · simpa [hready, hoq] using hreceived

/-! ## The command port (R55, R60, R95, R163) -/

/-- Settles O4: the comparison of `decodeWord` fails. -/
theorem widerWordIsRejected : Obligations.WiderWordIsRejected :=
  fun _ _ hwide => if_neg hwide.not_gt

theorem decodeCmd_of_decodeWord {charW w : Nat} {i : Instr} (h : decodeWord charW w = .ok i) :
    decodeCmd charW w = i := by
  unfold decodeWord at h
  split at h
  · exact Except.ok.inj h
  · cases h

/-- The converse of `accepted_eq_some`. -/
theorem accepted_of_offered {s : State} {p : HostCycle} {w : Nat} {ws : List Nat} (hvalid : p.inValid = true)
    (hroom : s.oq.length + 4 ≤ s.cfg.oqDepth) (hstream : s.cmdStream = w :: ws) :
    s.accepted p = some (decodeCmd s.cfg.charW w) := by
  simp [State.accepted, State.inReady, hvalid, hroom, hstream]

theorem step_of_accepted {s : State} {i : Instr} (hrst : s.pins.rst = false) (haccepted : s.accepted s.pins = some i) :
    step s = exec i (s.tick.outputTransfer s.pins).consumeCommand := by
  simp [step, clockCycle, hrst, haccepted]

/-- Settles O40: the command is accepted, and each clause says what the output transfer before it was. -/
theorem stepRunsTheDecodedCommand : Obligations.StepRunsTheDecodedCommand := by
  intro s p ps w ws i hcycles hrst hvalid hroom hstream hdecode
  have hpins : s.pins = p := by simp [State.pins, hcycles]
  have haccepted : s.accepted p = some i := by
    rw [accepted_of_offered hvalid hroom hstream, decodeCmd_of_decodeWord hdecode]
  have hstep : step s = exec i (s.tick.outputTransfer p).consumeCommand := by
    rw [step_of_accepted (by rw [hpins, hrst]) (by rw [hpins, haccepted]), hpins]
  rw [hstep, State.outputTransfer_eq]
  refine ⟨fun hready => ?_, fun hoq => ?_, fun x xs hready hoq => ?_⟩
  · simp [State.consumeCommand, State.tick, hready, hstream, hcycles]
  · simp [State.consumeCommand, State.tick, hoq, hstream, hcycles]
  · simp [State.consumeCommand, State.tick, hready, hoq, hstream, hcycles]

/-- A word presented to a block that can ever accept a command is executed next, after the host has made room. -/
theorem step_presentWord {s : State} {w : Nat} {i : Instr} (hdepth : 4 ≤ s.cfg.oqDepth)
    (hdecode : decodeWord s.cfg.charW w = .ok i) : step (s.presentWord w) = exec i s.makeRoom := by
  have hroom : (s.presentWord w).oq.length + 4 ≤ (s.presentWord w).cfg.oqDepth := by
    simp only [State.presentWord_oq, State.presentWord_cfg, List.length_drop]
    omega
  exact (stepRunsTheDecodedCommand (s.presentWord w) _ _ w _ i rfl rfl rfl hroom rfl hdecode).1 rfl

theorem decodeWord_of_decodeTableWord {nbits w : Nat} {i : Instr} (h : decodeTableWord nbits w = some i) :
    decodeWord defaultCharW (w % 2 ^ nbits) = .ok i := by
  unfold decodeTableWord at h
  split at h
  · next hdecode => rw [hdecode, Option.some.inj h]
  · cases h

/-- Settles O44: `withFetchWord` presents the word, and at reset there is room already. -/
theorem presentedWordRunsNext : Obligations.PresentedWordRunsNext := by
  constructor
  · intro s nbits w i hdepth hw hdecode
    rw [State.withFetchWord, Nat.mod_eq_of_lt hw, step_presentWord hdepth hdecode, State.makeRoom]
  · intro nbits w i htable
    exact step_presentWord (s := State.reset) (by decide) (decodeWord_of_decodeTableWord htable)

/-! ## A run of the clock is a run of atomic transitions (R50, R51)

The atomic transitions do not see what the host has still to present, so a clocked run is followed by the transitions of
its cycles, one cycle after another, and the host's side is filled in at the end. -/

/-- The same block with another command stream and other coming cycles. -/
def State.withHost (s : State) (words : List Nat) (pins : List HostCycle) : State :=
  { s with cmdStream := words, cycles := pins }

@[simp] theorem State.withHost_cfg (s : State) (words : List Nat) (pins : List HostCycle) :
    (s.withHost words pins).cfg = s.cfg := rfl
@[simp] theorem State.withHost_cmdStream (s : State) (words : List Nat) (pins : List HostCycle) :
    (s.withHost words pins).cmdStream = words := rfl
@[simp] theorem State.withHost_cycles (s : State) (words : List Nat) (pins : List HostCycle) :
    (s.withHost words pins).cycles = pins := rfl
@[simp] theorem State.withHost_withHost (s : State) (words words' : List Nat) (pins pins' : List HostCycle) :
    (s.withHost words pins).withHost words' pins' = s.withHost words' pins' := rfl

theorem outputTransfer_tick (s : State) (p : HostCycle) :
    s.tick.outputTransfer p = (s.outputTransfer p).withHost s.cmdStream s.cycles.tail := by
  simp [State.outputTransfer_eq, State.withHost, State.tick]

theorem consumeCommand_outputTransfer_tick (s : State) (p : HostCycle) :
    (s.tick.outputTransfer p).consumeCommand = (s.outputTransfer p).withHost s.cmdStream.tail s.cycles.tail := by
  simp [State.outputTransfer_eq, State.withHost, State.tick, State.consumeCommand]

theorem act_withHost {a : HostAction} {s t : State} (h : act a s = .next t) (words : List Nat)
    (pins : List HostCycle) : act a (s.withHost words pins) = .next (t.withHost words pins) := by
  cases a with
  | command i =>
    rw [act, exec_eq] at h
    cases h
    exact exec_eq i _
  | pop =>
    cases h
    rw [act, State.pop_eq, State.pop_eq]
    rfl
  | reset =>
    cases h
    rfl

@[simp] theorem runActions_nil (s : State) : runActions [] s = .next s := rfl

theorem runActions_cons {a : HostAction} {s t : State} (h : act a s = .next t) (as : List HostAction) :
    runActions (a :: as) s = runActions as t := by
  simp only [runActions, h]

/-- A run that completes has a first transition, which completes. -/
theorem exists_act_of_runActions_cons {a : HostAction} {as : List HostAction} {s u : State}
    (h : runActions (a :: as) s = .next u) : ∃ t, act a s = .next t ∧ runActions as t = .next u := by
  rw [runActions] at h
  cases hact : act a s with
  | next t => exact ⟨t, rfl, by simpa only [hact] using h⟩
  | fault r => simp [hact] at h
  | refused r => simp [hact] at h

theorem runActions_append {as bs : List HostAction} {s t : State} (h : runActions as s = .next t) :
    runActions (as ++ bs) s = runActions bs t := by
  induction as generalizing s with
  | nil =>
    cases h
    rfl
  | cons a as ih =>
    obtain ⟨m, hact, hrest⟩ := exists_act_of_runActions_cons h
    rw [List.cons_append, runActions_cons hact, ih hrest]

theorem runActions_withHost {as : List HostAction} {s u : State} (h : runActions as s = .next u) (words : List Nat)
    (pins : List HostCycle) : runActions as (s.withHost words pins) = .next (u.withHost words pins) := by
  induction as generalizing s with
  | nil =>
    cases h
    rfl
  | cons a as ih =>
    obtain ⟨t, hact, hrest⟩ := exists_act_of_runActions_cons h
    rw [runActions_cons (act_withHost hact words pins), ih hrest]

theorem runActions_keeps_cfg {as : List HostAction} {s u : State} (h : runActions as s = .next u) : u.cfg = s.cfg := by
  induction as generalizing s with
  | nil =>
    cases h
    rfl
  | cons a as ih =>
    obtain ⟨t, hact, hrest⟩ := exists_act_of_runActions_cons h
    rw [ih hrest, act_keeps_cfg hact]

/-- What O48 asks of `k` cycles from `s` to `t`: `t` is reached by atomic transitions whose commands are the first `n`
of the stream, in order, and whose resets are those of the `k` cycles; the host's side has moved on past both. -/
def IsActionRun (k : Nat) (s t : State) : Prop :=
  ∃ (n : Nat) (acts : List HostAction) (u : State),
    n ≤ s.cmdStream.length ∧
    commandsOf acts = (s.cmdStream.take n).map (decodeCmd s.cfg.charW) ∧
    acts.count .reset = (s.cycles.take k).countP (fun p => p.rst) ∧
    runActions acts s = .next u ∧
    t = u.withHost (s.cmdStream.drop n) (s.cycles.drop k)

theorem isActionRun_zero (s : State) : IsActionRun 0 s s :=
  ⟨0, [], s, Nat.zero_le _, rfl, rfl, rfl, rfl⟩

theorem commandsOf_append (as bs : List HostAction) : commandsOf (as ++ bs) = commandsOf as ++ commandsOf bs :=
  List.filterMap_append

@[simp] theorem commandsOf_command (i : Instr) : commandsOf [.command i] = [i] := rfl

/-- Runs are put one after the other: the second takes the stream and the cycles up where the first left them. -/
theorem IsActionRun.trans {j k : Nat} {s t v : State} (h₁ : IsActionRun j s t) (h₂ : IsActionRun k t v) :
    IsActionRun (j + k) s v := by
  obtain ⟨m, as, u, hm, hcommands₁, hresets₁, hrun₁, rfl⟩ := h₁
  obtain ⟨n, bs, w, hn, hcommands₂, hresets₂, hrun₂, rfl⟩ := h₂
  have hcfg : u.cfg = s.cfg := runActions_keeps_cfg hrun₁
  have hrun : runActions bs u = .next (w.withHost u.cmdStream u.cycles) :=
    runActions_withHost hrun₂ u.cmdStream u.cycles
  simp only [State.withHost_cfg, State.withHost_cmdStream, State.withHost_cycles, List.length_drop, hcfg]
    at hn hcommands₂ hresets₂
  refine ⟨m + n, as ++ bs, w.withHost u.cmdStream u.cycles, by omega, ?_, ?_, ?_, ?_⟩
  · rw [commandsOf_append, hcommands₁, hcommands₂, List.take_add, List.map_append]
  · rw [List.count_append, hresets₁, hresets₂, List.take_add, List.countP_append]
  · rw [runActions_append hrun₁, hrun]
  · simp

/-- The host's `POP` in a cycle, if it takes a token in it. -/
def popActions (s : State) (p : HostCycle) : List HostAction := if p.outReady && s.outValid then [.pop] else []

theorem runActions_popActions (s : State) (p : HostCycle) :
    runActions (popActions s p) s = .next (s.outputTransfer p) := by
  unfold popActions State.outputTransfer
  split <;> rfl

theorem commandsOf_popActions (s : State) (p : HostCycle) : commandsOf (popActions s p) = [] := by
  unfold popActions
  split <;> rfl

theorem count_reset_popActions (s : State) (p : HostCycle) : (popActions s p).count .reset = 0 := by
  unfold popActions
  split <;> rfl

theorem countP_rst_take_one (s : State) :
    (s.cycles.take 1).countP (fun p => p.rst) = if s.pins.rst then 1 else 0 := by
  cases hcycles : s.cycles with
  | nil => simp [State.pins, hcycles, HostCycle.idle]
  | cons p ps => simp [State.pins, hcycles, List.countP_cons]

/-- One cycle is a reset, a `POP` or nothing, or a command after a `POP` or nothing. -/
theorem isActionRun_one {s t : State} (h : step s = .next t) : IsActionRun 1 s t := by
  have hpop := runActions_popActions s s.pins
  obtain ⟨hrst, hstep⟩ | ⟨hrst, -, hstep⟩ | ⟨i, hrst, haccepted, hstep⟩ := step_cases s <;> rw [hstep] at h
  · cases h
    refine ⟨0, [.reset], s.resetPin, Nat.zero_le _, rfl, ?_, rfl, ?_⟩
    · simp [countP_rst_take_one, hrst]
    · simp [State.withHost, State.resetPin, State.tick]
  · cases h
    refine ⟨0, popActions s s.pins, s.outputTransfer s.pins, Nat.zero_le _, commandsOf_popActions _ _, ?_, hpop, ?_⟩
    · simp [count_reset_popActions, countP_rst_take_one, hrst]
    · simp [outputTransfer_tick]
  · obtain ⟨-, -, w, ws, hstream, hdecode⟩ := accepted_eq_some haccepted
    have hexec : act (.command i) (s.outputTransfer s.pins) = .next _ := exec_eq i _
    rw [consumeCommand_outputTransfer_tick] at h
    obtain rfl := Host.Outcome.next.inj (h.symm.trans (act_withHost hexec _ _))
    refine ⟨1, popActions s s.pins ++ [.command i], _, by simp [hstream], ?_, ?_,
      by rw [runActions_append hpop, runActions_cons hexec, runActions_nil], by simp⟩
    · simp [commandsOf_append, commandsOf_popActions, hstream, hdecode]
    · simp [count_reset_popActions, countP_rst_take_one, hrst]

/-- Every cycle completes, so a run of `k + 1` is a first cycle and a run of `k`. -/
theorem exists_step_of_runSteps_succ {k : Nat} {s t : State} (h : runSteps (k + 1) s = .next t) :
    ∃ m, step s = .next m ∧ runSteps k m = .next t := by
  rw [runSteps] at h
  cases hstep : step s with
  | next m => exact ⟨m, rfl, by simpa only [hstep] using h⟩
  | fault r => simp [hstep] at h
  | refused r => simp [hstep] at h

theorem isActionRun_of_runSteps {k : Nat} {s t : State} (h : runSteps k s = .next t) : IsActionRun k s t := by
  induction k generalizing s with
  | zero =>
    cases h
    exact isActionRun_zero _
  | succ k ih =>
    obtain ⟨m, hstep, hrest⟩ := exists_step_of_runSteps_succ h
    rw [Nat.add_comm]
    exact (isActionRun_one hstep).trans (ih hrest)

/-- Settles O48, by induction on the number of cycles. -/
theorem clockedRunIsACommandRun : Obligations.ClockedRunIsACommandRun :=
  fun _ _ _ => isActionRun_of_runSteps

end Sys2Proof.Machine

/-! # The encodings (`30_encoding.md`)

Command words, token words and the assembler's lines, the bit stream that `Pack` and `Flush` cut into bytes, and the
default tables. -/

namespace Sys2Proof.Machine

/-! ## Command words (R60 to R63) -/

theorem encode_lt {charW : Nat} {i : Instr} (h : i.wf charW = true) : encode charW i < 2 ^ (charW + 1) := by
  cases i with
  | char c => exact Laws.EncodeFitsPort.char c charW h
  | endMsg => exact Laws.EncodeFitsPort.endMsg charW h

theorem decodeCmd_of_testBit_false {charW w : Nat} (h : w.testBit charW = false) :
    decodeCmd charW w = .char (w % 2 ^ charW) := by
  simp [decodeCmd, h]

theorem decodeCmd_of_testBit_true {charW w : Nat} (h : w.testBit charW = true) : decodeCmd charW w = .endMsg := by
  simp [decodeCmd, h]

theorem decodeWord_of_lt {charW w : Nat} (h : w < 2 ^ (charW + 1)) : decodeWord charW w = .ok (decodeCmd charW w) :=
  if_pos h

/-- An operand that fits leaves bit `charW` clear; the canonical `END` word is that bit alone. -/
theorem decodeCmd_encode {charW : Nat} {i : Instr} (h : i.wf charW = true) : decodeCmd charW (encode charW i) = i := by
  cases i with
  | char c =>
    have hc : c < 2 ^ charW := by simpa [Instr.wf] using h
    rw [encode, decodeCmd_of_testBit_false (Nat.testBit_lt_two_pow hc), Nat.mod_eq_of_lt hc]
  | endMsg => exact decodeCmd_of_testBit_true Nat.testBit_two_pow_self

/-- Settles O2: the word fits the port, and its bit `CHAR_W` tells the two commands apart. -/
theorem decodeOfEncodeIsIdentity : Obligations.DecodeOfEncodeIsIdentity :=
  fun _ _ h => by rw [decodeWord_of_lt (encode_lt h), decodeCmd_encode h]

/-- The patterns' match and mask look at one bit. -/
theorem and_two_pow_eq_zero_iff (w n : Nat) : w &&& 2 ^ n = 0 ↔ w.testBit n = false := by
  rw [Nat.and_two_pow]
  cases w.testBit n <;> simp

theorem and_two_pow_eq_self_iff (w n : Nat) : w &&& 2 ^ n = 2 ^ n ↔ w.testBit n = true := by
  rw [Nat.and_two_pow]
  cases w.testBit n <;> simp [(Nat.two_pow_pos n).ne]

theorem decodeWord_eq_char_iff {charW w : Nat} (h : w < 2 ^ (charW + 1)) :
    decodeWord charW w = .ok (.char (w % 2 ^ charW)) ↔ w.testBit charW = false := by
  rw [decodeWord_of_lt h]
  cases hbit : w.testBit charW with
  | false => simp [decodeCmd_of_testBit_false hbit]
  | true => simp [decodeCmd_of_testBit_true hbit]

theorem decodeWord_eq_endMsg_iff {charW w : Nat} (h : w < 2 ^ (charW + 1)) :
    decodeWord charW w = .ok .endMsg ↔ w.testBit charW = true := by
  rw [decodeWord_of_lt h]
  cases hbit : w.testBit charW with
  | false => simp [decodeCmd_of_testBit_false hbit]
  | true => simp [decodeCmd_of_testBit_true hbit]

/-- A character without septets packs nothing. -/
theorem exec_char_of_mapChar_nil {c : Nat} {s : State} (h : mapChar s.cfg c = []) : exec (.char c) s = .next s := by
  rw [exec, execChar, h, List.foldl_nil]

/-- Settles O3: bit `CHAR_W` alone decides, the mask of the patterns is that bit, and a character that `find` meets in
neither table maps to no septet. -/
theorem everyCommandWordHasOneMeaning : Obligations.EveryCommandWordHasOneMeaning := by
  refine ⟨fun charW w h => ⟨(decodeWord_eq_char_iff h).2, (decodeWord_eq_endMsg_iff h).2⟩, fun w h => ⟨?_, ?_⟩, rfl,
    fun c s hprimary hext => exec_char_of_mapChar_nil ?_⟩
  · have hlow : w &&& 0x1FFFFF = w % 2 ^ 21 := Nat.and_two_pow_sub_one_eq_mod w 21
    rw [hlow, decodeWord_eq_char_iff h]
    exact and_two_pow_eq_zero_iff w 21
  · rw [decodeWord_eq_endMsg_iff h]
    exact and_two_pow_eq_self_iff w 21
  · exact mapChar_dropped ((find_eq_none_iff _ _).2 hprimary) ((find_eq_none_iff _ _).2 hext)

/-- Settles O1: five closed words. -/
theorem specWordsDecodeAsWritten : Obligations.SpecWordsDecodeAsWritten := by
  unfold Obligations.SpecWordsDecodeAsWritten
  decide

/-! ## Token words (R65 to R67) -/

@[simp] theorem hexToken_isEom (d : Byte) : (hexToken d).isEom = false := by
  simp [Token.isEom, hexToken]

@[simp] theorem hexToken_ch (d : Byte) : (hexToken d).ch = d := by
  simp [Token.ch, hexToken]

@[simp] theorem eomToken_isEom : Token.isEom eomToken = true := by decide

theorem hexToken_ne_eomToken (d : Byte) : hexToken d ≠ eomToken := by
  intro h
  simpa using congrArg Token.isEom h

/-- Settles O5. -/
theorem tokenFieldsAsEncoded : Obligations.TokenFieldsAsEncoded :=
  ⟨fun d => ⟨hexToken_isEom d, hexToken_ch d⟩, rfl, eomToken_isEom, by decide⟩

/-- Settles O18: the trace grows by the rendering of the bytes packed, and after an `END` by `EOM`. -/
theorem eomComesOnlyAndLastFromEnd : Obligations.EomComesOnlyAndLastFromEnd := by
  refine ⟨rfl, hexToken_ne_eomToken, fun c s t h => ?_, fun s t h => ?_⟩
  · rw [exec, execChar_eq] at h
    cases h
    exact ⟨_, rfl, fun _ => exists_digit_of_mem_flatMap_hexTokens⟩
  · rw [exec, execEnd_eq] at h
    cases h
    exact ⟨_, (List.append_assoc _ _ _).symm, fun _ => exists_digit_of_mem_flatMap_hexTokens⟩

/-! ## The assembler's lines (R78) -/

theorem actions_msg (text : List Nat) : (AsmLine.msg text).actions = (msgCommands text).map .command := by
  simp [AsmLine.actions, msgCommands]

theorem commandsOf_map_command (is : List Instr) : commandsOf (is.map .command) = is := by
  simp [commandsOf, List.filterMap_map]

theorem runActions_map_command (is : List Instr) (s : State) : runActions (is.map .command) s = runCommands is s := by
  induction is generalizing s with
  | nil => rfl
  | cons i is ih =>
    have hact : act (.command i) s = .next _ := exec_eq i s
    rw [List.map_cons, runActions_cons hact, runCommands_cons (exec_eq i s), ih]

theorem words_eq_map_encode (charW : Nat) (l : AsmLine) :
    l.words charW = (commandsOf l.actions).map (encode charW) := by
  cases l with
  | charCode c => rfl
  | endMsg => rfl
  | reset => rfl
  | msg text =>
    rw [actions_msg, commandsOf_map_command]
    simp [AsmLine.words, msgCommands]

theorem wf_of_mem_commandsOf_actions {charW : Nat} {l : AsmLine} (h : l.wf charW = true) :
    ∀ i ∈ commandsOf l.actions, i.wf charW = true := by
  cases l with
  | charCode c => simpa [commandsOf, AsmLine.actions, Instr.wf, AsmLine.wf] using h
  | endMsg => simp [commandsOf, AsmLine.actions, Instr.wf]
  | reset => simp [commandsOf, AsmLine.actions]
  | msg text =>
    rw [actions_msg, commandsOf_map_command]
    simpa [msgCommands, Instr.wf, AsmLine.wf, or_imp, forall_and] using h

theorem map_decodeCmd_words {charW : Nat} {l : AsmLine} (h : l.wf charW = true) :
    (l.words charW).map (decodeCmd charW) = commandsOf l.actions := by
  rw [words_eq_map_encode, List.map_map, List.map_congr_left, List.map_id]
  exact fun i hi => decodeCmd_encode (wf_of_mem_commandsOf_actions h i hi)

/-- Settles O6: a line's words are the words of the commands among its actions, and running command actions is running
the commands. -/
theorem assemblerLinesAsWritten : Obligations.AssemblerLinesAsWritten := by
  refine ⟨fun _ => rfl, rfl, rfl, rfl, fun text => ?_, fun text s => ?_, fun _ _ => map_decodeCmd_words⟩
  · simp [AsmLine.words, encode]
  · rw [actions_msg, runActions_map_command]

/-! ## The bit stream through `Pack` and `Flush` (R71, R72) -/

@[simp] theorem length_septetBits (x : Septet) : (septetBits x).length = 7 := rfl
@[simp] theorem length_byteBits (b : Byte) : (byteBits b).length = 8 := rfl

@[simp] theorem length_bitStream (xs : List Septet) : (bitStream xs).length = 7 * xs.length := by
  simp [bitStream, Nat.mul_comm]

@[simp] theorem length_flatMap_byteBits (bs : List Byte) : (bs.flatMap byteBits).length = 8 * bs.length := by
  simp [Nat.mul_comm]

@[simp] theorem length_pendingBits (np : BitVec 3) (acc : Septet) : (pendingBits np acc).length = np.toNat := by
  have := np.isLt
  simp only [pendingBits, List.length_drop, length_septetBits]
  omega

@[simp] theorem pendingBits_zero (acc : Septet) : pendingBits 0 acc = [] := rfl

theorem np_cases (np : BitVec 3) :
    np = 0 ∨ np = 1 ∨ np = 2 ∨ np = 3 ∨ np = 4 ∨ np = 5 ∨ np = 6 ∨ np = 7 := by
  revert np
  decide

/-- A completed byte is the pending bits and then the first bits of the septet (R131). -/
theorem byteBits_packByte {np : BitVec 3} (hnp : np ≠ 0) (acc x : Septet) :
    (packByte np acc x).toList.flatMap byteBits = pendingBits np acc ++ (septetBits x).take (8 - np.toNat) := by
  obtain h | rfl | rfl | rfl | rfl | rfl | rfl | rfl := np_cases np
  · exact absurd h hnp
  all_goals simp [packByte, byteBits, pendingBits, septetBits]

/-- What `Pack` keeps is the other bits of the septet (R131). -/
theorem pendingBits_packAcc {np : BitVec 3} (hnp : np ≠ 0) (x : Septet) :
    pendingBits (packNp np) (packAcc np x) = (septetBits x).drop (8 - np.toNat) := by
  obtain h | rfl | rfl | rfl | rfl | rfl | rfl | rfl := np_cases np
  · exact absurd h hnp
  all_goals simp [packNp, packAcc, pendingBits, septetBits]

/-- One `Pack` cuts the bits at hand into a byte, if there are eight, and the new pending bits. -/
theorem pendingBits_append_septetBits (np : BitVec 3) (acc x : Septet) :
    pendingBits np acc ++ septetBits x =
      (packByte np acc x).toList.flatMap byteBits ++ pendingBits (packNp np) (packAcc np x) := by
  by_cases hnp : np = 0
  · subst hnp
    rfl
  · rw [byteBits_packByte hnp, pendingBits_packAcc hnp, List.append_assoc, List.take_append_drop]

/-- Settles O20: one `Pack` cuts its bits in order, and masks what it keeps. -/
theorem packKeepsTheBitStream : Obligations.PackKeepsTheBitStream :=
  fun np acc x _ => ⟨pendingBits_append_septetBits np acc x, packAcc_lt np x⟩

theorem pendingBits_append_bitStream (np : BitVec 3) (acc : Septet) (xs : List Septet) :
    pendingBits np acc ++ bitStream xs =
      (packRun np acc xs).1.flatMap byteBits ++ pendingBits (packRun np acc xs).2.1 (packRun np acc xs).2.2 := by
  induction xs generalizing np acc with
  | nil => simp [bitStream]
  | cons x xs ih =>
    calc pendingBits np acc ++ bitStream (x :: xs)
        = (pendingBits np acc ++ septetBits x) ++ bitStream xs := by simp [bitStream]
      _ = (packByte np acc x).toList.flatMap byteBits ++
            (pendingBits (packNp np) (packAcc np x) ++ bitStream xs) := by
          rw [pendingBits_append_septetBits, List.append_assoc]
      _ = _ := by rw [ih, packRun_cons, List.flatMap_append, List.append_assoc]

/-- From a byte boundary the stream is the bits of the bytes returned and then the bits still pending. -/
theorem bitStream_eq_packRun (xs : List Septet) :
    bitStream xs = (packRun 0 0 xs).1.flatMap byteBits ++ pendingBits (packRun 0 0 xs).2.1 (packRun 0 0 xs).2.2 :=
  pendingBits_append_bitStream 0 0 xs

theorem packRun_length_mul_add_np (xs : List Septet) :
    8 * (packRun 0 0 xs).1.length + (packRun 0 0 xs).2.1.toNat = 7 * xs.length := by
  simpa [Nat.mul_comm 8] using (congrArg List.length (bitStream_eq_packRun xs)).symm

/-- Fewer than eight bits are pending, so their number is the leftover count `r`. -/
theorem packRun_np_toNat (xs : List Septet) : (packRun 0 0 xs).2.1.toNat = 7 * xs.length % 8 := by
  have hcount := packRun_length_mul_add_np xs
  have hlt := (packRun 0 0 xs).2.1.isLt
  omega

/-- The pending bits are the leftover bits, the last `r` of the stream. -/
theorem pendingBits_packRun (xs : List Septet) :
    pendingBits (packRun 0 0 xs).2.1 (packRun 0 0 xs).2.2 =
      (bitStream xs).drop (7 * xs.length - 7 * xs.length % 8) := by
  have hbytes : 7 * xs.length - 7 * xs.length % 8 = ((packRun 0 0 xs).1.flatMap byteBits).length := by
    rw [length_flatMap_byteBits, ← packRun_np_toNat, ← packRun_length_mul_add_np, Nat.add_sub_cancel]
  rw [hbytes, bitStream_eq_packRun, List.drop_left]

/-- The byte `Flush` returns is the pending bits and then the filler; with nothing pending both sides are empty. -/
theorem byteBits_flushByte {np : BitVec 3} {n : Nat} (hnp : np.toNat = 7 * n % 8) (acc : Septet) :
    (flushByte np acc).toList.flatMap byteBits = pendingBits np acc ++ fillBits n := by
  simp only [fillBits, ← hnp]
  obtain rfl | rfl | rfl | rfl | rfl | rfl | rfl | rfl := np_cases np <;>
    simp [flushByte, byteBits, pendingBits, septetBits, pad7]

theorem byteBits_flushByte_packRun (xs : List Septet) :
    (flushByte (packRun 0 0 xs).2.1 (packRun 0 0 xs).2.2).toList.flatMap byteBits =
      (bitStream xs).drop (7 * xs.length - 7 * xs.length % 8) ++ fillBits xs.length := by
  rw [byteBits_flushByte (packRun_np_toNat xs), pendingBits_packRun]

/-- With one bit pending the final byte is the filler under that bit (R133). -/
theorem flushByte_one (acc : Septet) : flushByte 1 acc = some 0x0D ∨ flushByte 1 acc = some 0x8D := by
  revert acc
  decide

/-- Settles O21: `r` bits are pending at the end, `Flush` puts the filler after them, and the clauses are the cases of
the filler. -/
theorem finalByteIsLeftoverBitsThenFiller : Obligations.FinalByteIsLeftoverBitsThenFiller := by
  intro xs r leftover final
  have hnp : (packRun 0 0 xs).2.1.toNat = r := packRun_np_toNat xs
  have hbits : final.toList.flatMap byteBits = leftover ++ fillBits xs.length := byteBits_flushByte_packRun xs
  refine ⟨fun hr => ?_, fun hr => ⟨?_, ?_⟩, fun hr => ?_⟩
  · have hzero : (packRun 0 0 xs).2.1 = 0 := BitVec.eq_of_toNat_eq (hnp.trans hr)
    exact if_pos hzero
  · have hfill : fillBits xs.length = [false, false, false, true, true, false, true] := by
      rw [fillBits, if_neg (by omega), if_pos hr]
    rw [hbits, hfill]
  · have hone : (packRun 0 0 xs).2.1 = 1 := BitVec.eq_of_toNat_eq (hnp.trans hr)
    simpa only [final, hone] using flushByte_one _
  · have hfill : fillBits xs.length = List.replicate (8 - r) false := by
      rw [fillBits, if_neg (by omega), if_neg (by omega)]
    rw [hbits, hfill]

/-! ## The default tables (R75 to R77; their contents are PRESUMED, log 2) -/

/-- No character stands twice among the entries. -/
def NoCharacterTwice (es : List TableEntry) : Prop := es.Pairwise fun a b => a.valid = true → a ≠ b

/-- Where no character stands twice, an entry that holds one fixes its index. -/
theorem NoCharacterTwice.index_eq {t : Table} (h : NoCharacterTwice t.toList) {i j : Septet}
    (hvalid : (memRead t i).valid = true) (heq : memRead t i = memRead t j) : i = j := by
  have hne : ∀ a b : Septet, a.toNat < b.toNat → (memRead t a).valid = true → memRead t a ≠ memRead t b := by
    intro a b hab
    simpa only [memRead_eq_toList] using List.pairwise_iff_getElem.1 h a.toNat b.toNat _ _ hab
  obtain hlt | htoNat | hgt := lt_trichotomy i.toNat j.toNat
  · exact absurd heq (hne i j hlt hvalid)
  · exact BitVec.eq_of_toNat_eq htoNat
  · exact absurd heq.symm (hne j i hgt (heq ▸ hvalid))

theorem noCharacterTwice_of_nodup {es : List TableEntry} (h : ((es.filter (·.valid)).map (·.char)).Nodup) :
    NoCharacterTwice es := by
  rw [List.Nodup, List.pairwise_map, List.pairwise_filter] at h
  refine h.imp fun {a b} hne hvalid (heq : a = b) => ?_
  exact hne hvalid (heq ▸ hvalid) (congrArg TableEntry.char heq)

/-- Both default tables taken together. -/
theorem defaultTables_noCharacterTwice : NoCharacterTwice (defaultPrimary.toList ++ defaultExt.toList) :=
  noCharacterTwice_of_nodup (by decide +kernel)

theorem memRead_mem_toList (t : Table) (i : Septet) : memRead t i ∈ t.toList := by
  rw [memRead_eq_toList]
  exact List.getElem_mem _

theorem memRead_carriageReturn {k : Config} (h : k.wf = true) : memRead k.primary 13 = ⟨true, k.carriageReturn⟩ := by
  simp only [Config.wf, Bool.and_eq_true, decide_eq_true_eq] at h
  obtain ⟨-, hentry⟩ := h
  exact hentry

/-- Settles O9: the entries are read off; that no character stands twice is one fact about both tables together. -/
theorem defaultExtAsListedAndNoDuplicates : Obligations.DefaultExtAsListedAndNoDuplicates := by
  obtain ⟨hprimary, hext, hboth⟩ := List.pairwise_append.1 defaultTables_noCharacterTwice
  refine ⟨fun _ => memRead_carriageReturn, by decide +kernel, rfl, rfl, rfl, rfl, rfl, rfl, rfl, rfl, rfl, rfl,
    rfl, by decide +kernel, by decide +kernel,
    fun _ _ => NoCharacterTwice.index_eq hprimary, fun _ _ => NoCharacterTwice.index_eq hext, ?_⟩
  intro i j hvalid heq
  exact hboth _ (memRead_mem_toList _ i) _ (memRead_mem_toList _ j) (heq ▸ hvalid) heq

/-- Settles O52: the 128 entries are read off, row by row. -/
theorem defaultPrimaryAsListed : Obligations.DefaultPrimaryAsListed := by
  unfold Obligations.DefaultPrimaryAsListed
  and_intros <;> decide +kernel

end Sys2Proof.Machine

/-! # The commands (`40_commands.md`)

What one command does, case by case; the streamed machine against `Encode`; what a clock cycle does when no command is
transferred; and what a host receives that takes every token. -/

namespace Sys2Proof.Machine

/-! ## One command (R90, R91) -/

/-- What `CHAR c` does, once the run of `Pack` over its septets is known. -/
theorem exec_char_of_packRun {c : Nat} {s : State} {bs : List Byte} {np : BitVec 3} {acc : Septet}
    (h : packRun s.np s.acc (mapChar s.cfg c) = (bs, np, acc)) :
    exec (.char c) s = .next
      { s with np := np, acc := acc, oq := s.oq ++ bs.flatMap hexTokens, out := s.out ++ bs.flatMap hexTokens } := by
  rw [exec, execChar_eq, h]

/-- What `END` does, once the final byte is known. -/
theorem exec_endMsg_of_flushByte {s : State} {b : Option Byte} (h : flushByte s.np s.acc = b) :
    exec .endMsg s = .next
      { s with
        np := 0
        acc := 0
        oq := s.oq ++ (b.toList.flatMap hexTokens ++ [eomToken])
        out := s.out ++ (b.toList.flatMap hexTokens ++ [eomToken]) } := by
  rw [exec, execEnd_eq, h]

/-! ### The runs of `Pack` over the one or two septets of a character -/

theorem packByte_of_ne_zero {np : BitVec 3} (hnp : np ≠ 0) (acc x : Septet) :
    packByte np acc x = some ((acc.setWidth 8 <<< (8 - np.toNat)) ||| (x.setWidth 8 >>> (np.toNat - 1))) :=
  if_neg hnp

theorem packAcc_of_ne_zero {np : BitVec 3} (hnp : np ≠ 0) (x : Septet) :
    packAcc np x = x &&& BitVec.ofNat 7 (2 ^ (np.toNat - 1) - 1) :=
  if_neg hnp

theorem packNp_of_ne_zero {np : BitVec 3} (hnp : np ≠ 0) : packNp np = np - 1 := if_neg hnp

theorem packRun_singleton {np : BitVec 3} (hnp : np ≠ 0) (acc x : Septet) :
    packRun np acc [x] =
      ([(acc.setWidth 8 <<< (8 - np.toNat)) ||| (x.setWidth 8 >>> (np.toNat - 1))], np - 1,
        x &&& BitVec.ofNat 7 (2 ^ (np.toNat - 1) - 1)) := by
  rw [packRun_cons, packRun_nil, packByte_of_ne_zero hnp, packNp_of_ne_zero hnp, packAcc_of_ne_zero hnp]
  rfl

/-- On a byte boundary the first septet waits, and the second completes a byte at `np = 7`. -/
theorem packRun_pair_boundary (acc x y : Septet) :
    packRun 0 acc [x, y] = ([(x.setWidth 8 <<< 1) ||| (y.setWidth 8 >>> 6)], 6, y &&& 0x3F) := rfl

/-- With one bit pending the first septet completes a byte and leaves a byte boundary, where the second waits. -/
theorem packRun_pair_one (acc x y : Septet) :
    packRun 1 acc [x, y] = ([(acc.setWidth 8 <<< 7) ||| x.setWidth 8], 7, y) := by
  simp [packByte, packNp, packAcc]

/-- With two or more bits pending each septet completes a byte. -/
theorem packRun_pair {np : BitVec 3} (hnp : 2 ≤ np.toNat) (acc x y : Septet) :
    packRun np acc [x, y] =
      ([(acc.setWidth 8 <<< (8 - np.toNat)) ||| (x.setWidth 8 >>> (np.toNat - 1)),
        ((x &&& BitVec.ofNat 7 (2 ^ (np.toNat - 1) - 1)).setWidth 8 <<< (9 - np.toNat)) |||
          (y.setWidth 8 >>> (np.toNat - 2))], np - 2, y &&& BitVec.ofNat 7 (2 ^ (np.toNat - 2) - 1)) := by
  have hne : np ≠ 0 := by bv_omega
  have hrest : np - 1 ≠ 0 := by bv_omega
  have hpred : (np - 1).toNat = np.toNat - 1 := by bv_omega
  have hshift : 8 - (np.toNat - 1) = 9 - np.toNat := by omega
  have hnp2 : np - 1 - 1 = np - 2 := by bv_omega
  rw [packRun_cons, packByte_of_ne_zero hne, packNp_of_ne_zero hne, packAcc_of_ne_zero hne, packRun_singleton hrest,
    hpred, hshift, Nat.sub_sub, hnp2]
  rfl

/-- Settles O13: each case names the septets of `Map(c)` and the run of `Pack` over them. -/
theorem charEffect : Obligations.CharEffect := by
  intro c s
  refine ⟨fun i hi hnp => ?_, fun i hi hnp => ?_, fun j hp he hnp => ?_, fun j hp he hnp => ?_, fun j hp he hnp => ?_,
    fun hp he => exec_char_of_mapChar_nil (mapChar_dropped hp he)⟩
  · have hrun : packRun s.np s.acc (mapChar s.cfg c) = ([], 7, i) := by rw [mapChar_primary hi, hnp]; rfl
    simpa using exec_char_of_packRun hrun
  · have hrun := packRun_singleton hnp s.acc i
    rw [← mapChar_primary hi] at hrun
    simpa using exec_char_of_packRun hrun
  · have hrun := packRun_pair_boundary s.acc esc j
    rw [← hnp, ← mapChar_extension hp he] at hrun
    simpa using exec_char_of_packRun hrun
  · have hrun := packRun_pair_one s.acc esc j
    rw [← hnp, ← mapChar_extension hp he] at hrun
    simpa using exec_char_of_packRun hrun
  · have hrun := packRun_pair hnp s.acc esc j
    rw [← mapChar_extension hp he] at hrun
    simpa using exec_char_of_packRun hrun

/-- Settles O14: the three cases of `Flush`. -/
theorem endEffect : Obligations.EndEffect := by
  intro s
  refine ⟨fun hnp => ?_, fun hnp => ?_, fun hnp => ?_⟩
  · have hflush : flushByte s.np s.acc = none := if_pos hnp
    exact exec_endMsg_of_flushByte hflush
  · have hflush : flushByte s.np s.acc = some ((s.acc.setWidth 8 <<< 7) ||| 0x0D) := by rw [hnp]; rfl
    simpa [eomToken] using exec_endMsg_of_flushByte hflush
  · have hflush : flushByte s.np s.acc = some (s.acc.setWidth 8 <<< (8 - s.np.toNat)) := by
      rw [flushByte, if_neg (by bv_omega), if_neg (by bv_omega)]
    simpa [eomToken] using exec_endMsg_of_flushByte hflush

/-- Settles O16: a command is one update of the registers, the queue and the trace. -/
theorem commandFrame : Obligations.CommandFrame := by
  intro i s t h
  rw [exec_eq] at h
  cases h
  exact ⟨rfl, rfl, rfl, rfl, fun _ => ⟨rfl, rfl⟩, _, rfl, rfl, commandTokens_length_le s.cfg s.np s.acc i⟩

/-! ### Token counts -/

/-- `Pack` returns a byte for every eight bits, the pending ones first. -/
theorem packRun_length (np : BitVec 3) (acc : Septet) (xs : List Septet) :
    (packRun np acc xs).1.length = (np.toNat + 7 * xs.length) / 8 := by
  have hbits := congrArg List.length (pendingBits_append_bitStream np acc xs)
  have hlt := (packRun np acc xs).2.1.isLt
  simp only [List.length_append, length_pendingBits, length_bitStream, length_flatMap_byteBits] at hbits
  omega

theorem length_commandTokens_char (k : Config) (np : BitVec 3) (acc : Septet) (c : Nat) :
    (commandTokens k np acc (.char c)).length = 2 * ((np.toNat + 7 * (mapChar k c).length) / 8) := by
  rw [commandTokens, length_flatMap_hexTokens, packRun_length]

theorem out_length_sub_of_exec {i : Instr} {s t : State} (h : exec i s = .next t) :
    t.out.length - s.out.length = (commandTokens s.cfg s.np s.acc i).length := by
  rw [exec_eq] at h
  cases h
  simp

theorem isSome_flushByte (np : BitVec 3) (acc : Septet) : (flushByte np acc).isSome = true ↔ np ≠ 0 := by
  unfold flushByte
  split
  · next hnp => simp [hnp]
  · next hnp => split <;> exact ⟨fun _ => hnp, fun _ => rfl⟩

theorem length_commandTokens_endMsg (k : Config) (np : BitVec 3) (acc : Septet) :
    (commandTokens k np acc .endMsg).length = if np = 0 then 1 else 3 := by
  rw [commandTokens, List.length_append, length_flatMap_hexTokens, List.length_singleton]
  split
  · next hnp => rw [hnp]; rfl
  · next hnp =>
    obtain ⟨b, hb⟩ := Option.isSome_iff_exists.1 ((isSome_flushByte np acc).2 hnp)
    rw [hb]; rfl

/-- The number of septets of `Map(c)` tells its three cases apart. -/
theorem length_mapChar_iff (k : Config) (c : Nat) :
    ((mapChar k c).length = 0 ↔ isDropped k c = true) ∧
      ((mapChar k c).length = 1 ↔ (find k.primary c).isSome = true) ∧
      ((mapChar k c).length = 2 ↔ isExtension k c = true) := by
  cases hp : find k.primary c with
  | some i => simp [mapChar_primary hp, isDropped, isExtension, hp]
  | none =>
    cases he : find k.ext c with
    | some j => simp [mapChar_extension hp he, isDropped, isExtension, hp, he]
    | none => simp [mapChar_dropped hp he, isDropped, isExtension, hp, he]

/-- Settles O17: `CHAR` emits two tokens for every eight bits among the pending ones and those of its septets, and the
conditions speak of how many septets there are. -/
theorem tokenCountsPerCommand : Obligations.TokenCountsPerCommand := by
  refine ⟨fun c s t h => ?_, fun s t h => ?_⟩
  · have hseptets := mapChar_length_le s.cfg c
    have hbits := s.np.isLt
    have hzero : s.np = 0 ↔ s.np.toNat = 0 := BitVec.toNat_eq
    obtain ⟨hdropped, hprimary, hextension⟩ := length_mapChar_iff s.cfg c
    rw [out_length_sub_of_exec h, length_commandTokens_char, ← hdropped, ← hprimary, ← hextension, hzero]
    omega
  · rw [out_length_sub_of_exec h, length_commandTokens_endMsg]
    exact ⟨fun hnp => if_pos hnp, fun hnp => if_neg hnp⟩

/-! ## The bytes of the streamed machine are `PackAll` (R92) -/

theorem ofNat_bitsValue_byteBits (b : Byte) : BitVec.ofNat 8 (bitsValue (byteBits b)) = b := by
  revert b
  decide

theorem bytesOfBits_flatMap_byteBits (bs : List Byte) : bytesOfBits (bs.flatMap byteBits) = bs := by
  induction bs with
  | nil => rfl
  | cons b bs ih =>
    calc bytesOfBits ((b :: bs).flatMap byteBits)
        = BitVec.ofNat 8 (bitsValue (byteBits b)) :: bytesOfBits (bs.flatMap byteBits) := rfl
      _ = b :: bs := by rw [ofNat_bitsValue_byteBits, ih]

/-- The completed stream is the bits of the bytes that `Pack` and then `Flush` return, so cutting it gives them back. -/
theorem packRun_append_flushByte (xs : List Septet) :
    (packRun 0 0 xs).1 ++ (flushByte (packRun 0 0 xs).2.1 (packRun 0 0 xs).2.2).toList = packAll xs := by
  have hflush := byteBits_flushByte (packRun_np_toNat xs) (packRun 0 0 xs).2.2
  rw [packAll, bitStream_eq_packRun, List.append_assoc, ← hflush, ← List.flatMap_append, bytesOfBits_flatMap_byteBits]

theorem map_hexToken_hexStr (bs : List Byte) : (hexStr bs).map hexToken = bs.flatMap hexTokens := by
  rw [hexStr, List.map_flatMap]
  rfl

/-! ## Whole messages (R92, R97, R98) -/

/-- The loops of successive `CHAR`s are one loop over the septets of the whole text. -/
theorem runCommands_chars_append (text : List Nat) (is : List Instr) (s : State) :
    runCommands (text.map .char ++ is) s = runCommands is ((mapAll s.cfg text).foldl State.packEmit s) := by
  induction text generalizing s with
  | nil => rfl
  | cons c cs ih =>
    have hcfg : ((mapChar s.cfg c).foldl State.packEmit s).cfg = s.cfg := by rw [foldl_packEmit]
    have hexec : exec (.char c) s = .next ((mapChar s.cfg c).foldl State.packEmit s) := rfl
    rw [List.map_cons, List.cons_append, runCommands_cons hexec, ih, hcfg, mapAll_cons, List.foldl_append]

/-- A message's tokens are those of the packed septets and then those of `END` on the registers they leave. -/
theorem messageTokens_eq (k : Config) (text : List Nat) :
    messageTokens k text = (packRun 0 0 (mapAll k text)).1.flatMap hexTokens ++
      commandTokens k (packRun 0 0 (mapAll k text)).2.1 (packRun 0 0 (mapAll k text)).2.2 .endMsg := by
  rw [messageTokens, encodeText, map_hexToken_hexStr, ← packRun_append_flushByte, List.flatMap_append,
    List.append_assoc, commandTokens]

theorem runCommands_msgCommands {s : State} (hnp : s.np = 0) (hacc : s.acc = 0) (text : List Nat) :
    runCommands (msgCommands text) s = .next
      { s with oq := s.oq ++ messageTokens s.cfg text, out := s.out ++ messageTokens s.cfg text } := by
  rw [msgCommands, runCommands_chars_append, runCommands_cons (exec_eq _ _), runCommands, foldl_packEmit,
    messageTokens_eq]
  simp [commandRegs, hnp, hacc]

/-- Settles O33: the text's septets go through `Pack` in one run and through `Flush`, whose bytes are `PackAll`. -/
theorem wholeMessageLaw : Obligations.WholeMessageLaw :=
  fun text _ hnp hacc => runCommands_msgCommands hnp hacc text

theorem encodeText_of_mapAll_nil {k : Config} {text : List Nat} (h : mapAll k text = []) : encodeText k text = [] := by
  rw [encodeText, h]
  rfl

/-- Settles O34: at `np = 0` there is no final byte, and dropped characters leave no septet to pack. -/
theorem emptyMessage : Obligations.EmptyMessage := by
  refine ⟨fun s hnp => exec_endMsg_of_flushByte (if_pos hnp), fun k => encodeText_of_mapAll_nil rfl,
    fun k text h => encodeText_of_mapAll_nil (List.flatMap_eq_nil_iff.2 fun c hc => ?_)⟩
  obtain ⟨hprimary, hext⟩ := h c hc
  exact mapChar_dropped ((find_eq_none_iff _ _).2 hprimary) ((find_eq_none_iff _ _).2 hext)

/-! ## Cycles without a command (R95, R96) -/

theorem accepted_eq_none {s : State} {p : HostCycle}
    (h : p.inValid = false ∨ s.cmdStream = [] ∨ s.cfg.oqDepth < s.oq.length + 4) : s.accepted p = none := by
  rw [Option.eq_none_iff_forall_ne_some]
  intro i haccepted
  obtain ⟨hvalid, hroom, w, ws, hstream, -⟩ := accepted_eq_some haccepted
  obtain h | h | h := h
  · simp [hvalid] at h
  · simp [hstream] at h
  · omega

theorem step_of_not_accepted {s : State} (hrst : s.pins.rst = false) (h : s.accepted s.pins = none) :
    step s = .next (s.tick.outputTransfer s.pins) := by
  simp [step, clockCycle, hrst, h]

theorem State.outputTransfer_of_not_ready {s : State} {p : HostCycle} (h : p.outReady = false) :
    s.outputTransfer p = s := by
  simp [State.outputTransfer, h]

theorem State.pins_of_cycles_cons {s : State} {p : HostCycle} {ps : List HostCycle} (h : s.cycles = p :: ps) :
    s.pins = p := by
  simp [State.pins, h]

theorem State.pins_of_cycles_nil {s : State} (h : s.cycles = []) : s.pins = HostCycle.idle := by
  simp [State.pins, h]

theorem State.tick_of_cycles_nil {s : State} (h : s.cycles = []) : s.tick = s := by
  rw [State.tick, h, List.tail_nil, ← h]

/-- Settles O41: the step is the output transfer alone; past the listed cycles the pins are idle and there is none. -/
theorem cycleWithoutCommand : Obligations.CycleWithoutCommand := by
  refine ⟨fun s p ps hcycles hrst hnone => ?_, fun s hcycles => ?_⟩
  · have hpins : s.pins = p := State.pins_of_cycles_cons hcycles
    have hstep := step_of_not_accepted (by rw [hpins, hrst]) (accepted_eq_none (hpins ▸ hnone))
    rw [hstep, hpins, State.outputTransfer_eq]
    refine ⟨fun hkeep => ?_, fun x xs hready hoq => ?_⟩
    · obtain hready | hoq := hkeep
      · simp [State.tick, hready, hcycles]
      · simp [State.tick, hoq, hcycles]
    · simp [State.tick, hready, hoq, hcycles]
  · have hpins : s.pins = HostCycle.idle := State.pins_of_cycles_nil hcycles
    rw [step_of_not_accepted (by rw [hpins]; rfl) (accepted_eq_none (.inl (by rw [hpins]; rfl))), hpins,
      State.outputTransfer_of_not_ready rfl, State.tick_of_cycles_nil hcycles]

theorem runSteps_succ {s t : State} (h : step s = .next t) (k : Nat) : runSteps (k + 1) s = runSteps k t := by
  simp only [runSteps, h]

/-- A cycle of the hold (R95) passes and changes nothing. -/
theorem step_of_full {s : State} (hfull : s.cfg.oqDepth < s.oq.length + 4) (hrst : s.pins.rst = false)
    (hready : s.pins.outReady = false) : step s = .next s.tick := by
  rw [step_of_not_accepted hrst (accepted_eq_none (.inr (.inr hfull))), State.outputTransfer_of_not_ready hready]

/-- The pins of the coming cycle are the first listed, or idle. -/
theorem pins_quiet {s : State} {k : Nat} (h : ∀ p ∈ s.cycles.take (k + 1), p.rst = false ∧ p.outReady = false) :
    s.pins.rst = false ∧ s.pins.outReady = false := by
  cases hcycles : s.cycles with
  | nil =>
    rw [State.pins_of_cycles_nil hcycles]
    exact ⟨rfl, rfl⟩
  | cons p ps =>
    rw [State.pins_of_cycles_cons hcycles]
    exact h p (by simp [hcycles])

/-- Settles O42, by induction on the number of cycles: every cycle keeps the queue, and so the hold. -/
theorem holdLiftsOnlyByTransferOrReset : Obligations.HoldLiftsOnlyByTransferOrReset := by
  intro k
  induction k with
  | zero => exact fun s _ _ => rfl
  | succ k ih =>
    intro s hfull hquiet
    obtain ⟨hrst, hready⟩ := pins_quiet hquiet
    have hlater : ∀ p ∈ s.tick.cycles.take k, p.rst = false ∧ p.outReady = false := by
      intro p hp
      rw [State.tick_cycles, ← List.drop_one, List.take_drop, Nat.add_comm] at hp
      exact hquiet p (List.mem_of_mem_drop hp)
    rw [runSteps_succ (step_of_full hfull hrst hready), ih s.tick hfull hlater]
    simp [State.tick]

/-! ## A draining host (R92, R95, R96, R190)

That a host gets everything in time is a count of the work left; that what it gets is the message holds of any run of
the clock without reset, since taking tokens off the queue changes neither their values nor their order. -/

/-- A host that offers its next command and takes a token in every cycle. -/
def HostCycle.draining : HostCycle := ⟨false, true, true⟩

/-- A bound on the cycles a draining host needs: a command takes one cycle and leaves at most four tokens, each of
which takes one cycle. -/
def State.work (s : State) : Nat := 5 * s.cmdStream.length + s.oq.length

theorem eq_nil_of_work_eq_zero {s : State} (h : s.work = 0) : s.cmdStream = [] ∧ s.oq = [] := by
  rw [State.work] at h
  exact ⟨List.length_eq_zero_iff.1 (by omega), List.length_eq_zero_iff.1 (by omega)⟩

theorem exists_step (s : State) : ∃ t, step s = .next t := by
  obtain ⟨-, hstep⟩ | ⟨-, -, hstep⟩ | ⟨i, -, -, hstep⟩ := step_cases s
  · exact ⟨_, hstep⟩
  · exact ⟨_, hstep⟩
  · exact ⟨_, hstep.trans (exec_eq i _)⟩

theorem step_cycles {s t : State} (h : step s = .next t) : t.cycles = s.cycles.tail := by
  obtain ⟨-, hstep⟩ | ⟨-, -, hstep⟩ | ⟨i, -, -, hstep⟩ := step_cases s <;> rw [hstep] at h
  · cases h
    rfl
  · cases h
    simp
  · obtain ⟨-, -, -, hcycles, -⟩ := commandFrame i _ _ h
    simpa using hcycles

/-- A command adds at most four tokens to the queue and does not touch the stream. -/
theorem exec_work_le {i : Instr} {s t : State} (h : exec i s = .next t) : t.work ≤ s.work + 4 := by
  obtain ⟨-, -, hstream, -, -, ts, hoq, -, hlen⟩ := commandFrame i s t h
  simp only [State.work, hstream, hoq, List.length_append]
  omega

/-- With room in the queue only the end of the stream keeps an offer from being accepted. -/
theorem cmdStream_eq_nil_of_not_accepted {s : State} {p : HostCycle} (hvalid : p.inValid = true)
    (hroom : s.oq.length + 4 ≤ s.cfg.oqDepth) (h : s.accepted p = none) : s.cmdStream = [] := by
  cases hstream : s.cmdStream with
  | nil => rfl
  | cons w ws => simp [accepted_of_offered hvalid hroom hstream] at h

/-- Without an acceptance there is a token to take, or no work is left. -/
theorem step_work_le {s t : State} (hdepth : 4 ≤ s.cfg.oqDepth) (hpins : s.pins = .draining)
    (h : step s = .next t) : t.work ≤ s.work - 1 := by
  obtain ⟨hrst, -⟩ | ⟨-, hnone, hstep⟩ | ⟨i, -, haccepted, hstep⟩ := step_cases s
  · rw [hpins] at hrst
    cases hrst
  · rw [hstep] at h
    cases h
    cases hoq : s.oq with
    | nil =>
      have hroom : s.oq.length + 4 ≤ s.cfg.oqDepth := by simpa [hoq] using hdepth
      have hstream := cmdStream_eq_nil_of_not_accepted (by rw [hpins]; rfl) hroom hnone
      simp [State.work, State.outputTransfer_eq, hoq, hstream]
    | cons x xs =>
      simp [State.work, State.outputTransfer_eq, hoq, hpins, HostCycle.draining]
  · rw [hstep] at h
    obtain ⟨-, -, w, ws, hstream, -⟩ := accepted_eq_some haccepted
    have hexec := exec_work_le h
    have htaken := outputTransfer_oq_length_le s.tick s.pins
    simp only [State.work, State.consumeCommand_cmdStream, State.consumeCommand_oq, State.outputTransfer_cmdStream,
      State.tick_cmdStream, State.tick_oq, hstream, List.tail_cons, List.length_cons] at hexec htaken ⊢
    omega

theorem exists_runSteps_work_le (k : Nat) {s : State} (hdepth : 4 ≤ s.cfg.oqDepth)
    (hcycles : s.cycles = List.replicate k .draining) :
    ∃ t, runSteps k s = .next t ∧ t.work ≤ s.work - k := by
  induction k generalizing s with
  | zero => exact ⟨s, rfl, le_rfl⟩
  | succ k ih =>
    obtain ⟨m, hstep⟩ := exists_step s
    have hpins : s.pins = .draining := State.pins_of_cycles_cons hcycles
    have hfirst := step_work_le hdepth hpins hstep
    obtain ⟨t, hrun, hrest⟩ := ih (s := m) (by rwa [step_keeps_cfg hstep]) (by rw [step_cycles hstep, hcycles]; rfl)
    exact ⟨t, by rw [runSteps_succ hstep, hrun], by omega⟩

/-! ### What is delivered does not depend on when -/

/-- Two states of one block that differ at most in how many of its tokens the host has taken, and in what the host has
still to present. -/
structure SameButDelivered (s₁ s₂ : State) : Prop where
  cfg : s₁.cfg = s₂.cfg
  np : s₁.np = s₂.np
  acc : s₁.acc = s₂.acc
  out : s₁.out = s₂.out
  tokens : s₁.received ++ s₁.oq = s₂.received ++ s₂.oq

theorem SameButDelivered.refl (s : State) : SameButDelivered s s := ⟨rfl, rfl, rfl, rfl, rfl⟩

theorem SameButDelivered.pop {s₁ s₂ : State} (h : SameButDelivered s₁ s₂) : SameButDelivered s₁.pop s₂ where
  cfg := by simpa using h.cfg
  np := by simpa using h.np
  acc := by simpa using h.acc
  out := by simpa using h.out
  tokens := by
    rw [← h.tokens, State.pop_received, State.pop_oq, List.append_assoc, ← List.drop_one, List.take_append_drop]

theorem SameButDelivered.exec {s₁ s₂ t₁ : State} (h : SameButDelivered s₁ s₂) {i : Instr}
    (h₁ : exec i s₁ = .next t₁) : ∃ t₂, exec i s₂ = .next t₂ ∧ SameButDelivered t₁ t₂ := by
  rw [exec_eq] at h₁
  cases h₁
  refine ⟨_, exec_eq i s₂, h.cfg, ?_, ?_, ?_, ?_⟩
  · simp only [h.cfg, h.np, h.acc]
  · simp only [h.cfg, h.np, h.acc]
  · simp only [h.cfg, h.np, h.acc, h.out]
  · simp only [h.cfg, h.np, h.acc, ← List.append_assoc, h.tokens]

/-- A run of transitions without reset gives the tokens of its commands alone. -/
theorem SameButDelivered.runActions {acts : List HostAction} (hreset : acts.count .reset = 0) {s₁ s₂ u₁ : State}
    (h : SameButDelivered s₁ s₂) (hrun : runActions acts s₁ = .next u₁) :
    ∃ u₂, runCommands (commandsOf acts) s₂ = .next u₂ ∧ SameButDelivered u₁ u₂ := by
  induction acts generalizing s₁ s₂ with
  | nil =>
    cases hrun
    exact ⟨s₂, rfl, h⟩
  | cons a as ih =>
    obtain ⟨t₁, hact, hrest⟩ := exists_act_of_runActions_cons hrun
    cases a with
    | command i =>
      obtain ⟨t₂, hexec, ht⟩ := h.exec hact
      obtain ⟨u₂, hcommands, hu⟩ := ih (by simpa using hreset) ht hrest
      exact ⟨u₂, (runCommands_cons hexec _).trans hcommands, hu⟩
    | pop =>
      cases hact
      exact ih (by simpa using hreset) h.pop hrest
    | reset => simp at hreset

theorem map_decodeCmd_msgWords {charW : Nat} {text : List Nat} (h : ∀ c ∈ text, c < 2 ^ charW) :
    (msgWords charW text).map (decodeCmd charW) = msgCommands text := by
  have hline : (AsmLine.msg text).wf charW = true := by simpa [AsmLine.wf] using h
  have hwords := map_decodeCmd_words hline
  rwa [words_eq_map_encode, actions_msg, commandsOf_map_command] at hwords

/-- Settles O51: five cycles per word are the work of the message, and the transitions of the run are its commands and
the host's pops. -/
theorem drainingHostReceivesWholeMessage : Obligations.DrainingHostReceivesWholeMessage := by
  intro text s hnp hacc hoq htext hdepth hstream hcycles
  obtain ⟨t, hrun, hwork⟩ := exists_runSteps_work_le _ hdepth hcycles
  have hall : s.work = 5 * (text.length + 1) := by simp [State.work, hstream, hoq, msgWords, msgCommands]
  obtain ⟨hwords, htokens⟩ := eq_nil_of_work_eq_zero (s := t) (by omega)
  obtain ⟨n, acts, u, hn, hcommands, hresets, hacts, rfl⟩ := isActionRun_of_runSteps hrun
  have hn : n = s.cmdStream.length := le_antisymm hn (List.drop_eq_nil_iff.1 hwords)
  have hmsg : commandsOf acts = msgCommands text := by
    rw [hcommands, hn, List.take_length, hstream, map_decodeCmd_msgWords htext]
  have hnoreset : acts.count .reset = 0 := by rw [hresets, hcycles]; simp
  obtain ⟨v, hcommandRun, hv⟩ := (SameButDelivered.refl s).runActions hnoreset hacts
  rw [hmsg, runCommands_msgCommands hnp hacc] at hcommandRun
  cases hcommandRun
  have hqueue : u.oq = [] := htokens
  have htaken : u.received = s.received ++ messageTokens s.cfg text := by simpa [hqueue, hoq] using hv.tokens
  exact ⟨_, hrun, hwords, htokens, hv.np.trans hnp, hv.acc.trans hacc, htaken, hv.out⟩

end Sys2Proof.Machine

/-! # The character mapping (`41_map.md`)

`Map` in terms of what stands in the tables, the length of a text's septet sequence, dropped characters, and the way
back: unpacking the bytes of a text and looking its septets up gives the text. -/

namespace Sys2Proof.Machine

/-! ## The three cases of `Map` (R110 to R113) -/

theorem exists_find_eq_some {t : Table} {c : Nat} (h : ∃ i, memRead t i = ⟨true, c⟩) : ∃ i, find t c = some i := by
  obtain ⟨i, hi⟩ := h
  exact Option.ne_none_iff_exists'.1 fun hnone => (find_eq_none_iff t c).1 hnone i hi

/-- Settles O10: what `find` meets in each table selects the case of `Map`, and its index is the least. -/
theorem mapTakesPrimaryThenExtensionThenDrops : Obligations.MapTakesPrimaryThenExtensionThenDrops := by
  intro k c
  refine ⟨fun hprimary => ?_, fun hprimary hext => ?_, fun hprimary hext => ?_⟩
  · obtain ⟨i, hi⟩ := exists_find_eq_some hprimary
    exact ⟨i, mapChar_primary hi, (find_eq_some_iff _ _ _).1 hi⟩
  · obtain ⟨j, hj⟩ := exists_find_eq_some hext
    exact ⟨j, mapChar_extension ((find_eq_none_iff _ _).2 hprimary) hj, (find_eq_some_iff _ _ _).1 hj⟩
  · exact mapChar_dropped ((find_eq_none_iff _ _).2 hprimary) ((find_eq_none_iff _ _).2 hext)

/-! ## The length of a text's septet sequence (R115) -/

/-- A dropped character gives one septet too few for one each, an extension character one too many. -/
theorem length_mapAll_add_countP (k : Config) (text : List Nat) :
    (mapAll k text).length + text.countP (isDropped k) = text.length + text.countP (isExtension k) := by
  induction text with
  | nil => rfl
  | cons c text ih =>
    have hseptets := mapChar_length_le k c
    obtain ⟨hdropped, -, hextension⟩ := length_mapChar_iff k c
    simp only [mapAll_cons, List.length_append, List.length_cons, List.countP_cons, ← hdropped, ← hextension]
    split_ifs <;> omega

theorem length_mapAll_le (k : Config) (text : List Nat) : (mapAll k text).length ≤ 2 * text.length := by
  induction text with
  | nil => simp
  | cons c text ih =>
    have hc := mapChar_length_le k c
    simp only [mapAll_cons, List.length_append, List.length_cons]
    omega

/-- Settles O11: the length exceeds the text's by the extension characters less the dropped ones. -/
theorem mapAllLengthBounds : Obligations.MapAllLengthBounds := by
  intro k
  refine ⟨mapAll_nil k, mapAll_cons k, fun text => ⟨length_mapAll_le k text, ?_⟩⟩
  have hlen := length_mapAll_add_countP k text
  omega

/-! ## Dropped characters (R112) -/

/-- Settles O12: without septets a character packs nothing, and adds nothing to the septets of a text. -/
theorem droppedCharacterIsInvisible : Obligations.DroppedCharacterIsInvisible := by
  intro k c hprimary hext
  have hmap : mapChar k c = [] := mapChar_dropped ((find_eq_none_iff _ _).2 hprimary) ((find_eq_none_iff _ _).2 hext)
  have hexec : ∀ s : State, s.cfg = k → exec (.char c) s = .next s :=
    fun s hs => exec_char_of_mapChar_nil (hs ▸ hmap)
  refine ⟨hmap, hexec, fun s is hs => runCommands_cons (hexec s hs) is, fun a b => ?_,
    fun n => encodeText_of_mapAll_nil ?_⟩
  · have hseptets : mapAll k (a ++ c :: b) = mapAll k (a ++ b) := by simp [mapAll, hmap]
    rw [encodeText, hseptets, encodeText]
  · exact List.flatMap_eq_nil_iff.2 fun d hd => List.eq_of_mem_replicate hd ▸ hmap

/-! ## Unpacking inverts packing, up to the filler (R137, R139) -/

/-- The bytes of `PackAll` hold the completed stream and nothing else. -/
theorem flatMap_byteBits_packAll (xs : List Septet) :
    (packAll xs).flatMap byteBits = bitStream xs ++ fillBits xs.length := by
  rw [← packRun_append_flushByte, List.flatMap_append, byteBits_flushByte (packRun_np_toNat xs), ← List.append_assoc,
    ← bitStream_eq_packRun]

theorem ofNat_bitsValue_septetBits (x : Septet) : BitVec.ofNat 7 (bitsValue (septetBits x)) = x := by
  revert x
  decide

theorem septetsOfBits_bitStream_append (xs : List Septet) (bits : List Bool) :
    septetsOfBits (bitStream xs ++ bits) = xs ++ septetsOfBits bits := by
  induction xs with
  | nil => rfl
  | cons x xs ih =>
    calc septetsOfBits (bitStream (x :: xs) ++ bits)
        = BitVec.ofNat 7 (bitsValue (septetBits x)) :: septetsOfBits (bitStream xs ++ bits) := rfl
      _ = x :: xs ++ septetsOfBits bits := by rw [ofNat_bitsValue_septetBits, ih, List.cons_append]

theorem septetsOfBits_of_length_lt {bits : List Bool} (h : bits.length < 7) : septetsOfBits bits = [] := by
  refine septetsOfBits.eq_2 bits ?_
  rintro b6 b5 b4 b3 b2 b1 b0 rest rfl
  simp only [List.length_cons] at h
  omega

/-- Only the filler after one leftover bit is as long as a septet, and that septet is 13 (R139). -/
theorem septetsOfBits_fillBits (n : Nat) : septetsOfBits (fillBits n) = if n % 8 = 7 then [13] else [] := by
  unfold fillBits
  split_ifs with hzero hseven hone hseven hseven
  · omega
  · rfl
  · rfl
  · omega
  · omega
  · exact septetsOfBits_of_length_lt (by rw [List.length_replicate]; omega)

theorem unpack_packAll (xs : List Septet) :
    unpack (packAll xs) = xs ++ if xs.length % 8 = 7 then [13] else [] := by
  rw [unpack, flatMap_byteBits_packAll, septetsOfBits_bitStream_append, septetsOfBits_fillBits]

/-! ## Looking the septets of a text up (`95_test_vectors.md` section 5) -/

theorem lookupSeptets_cons {k : Config} {i : Septet} (hi : i ≠ esc) (xs : List Septet) :
    lookupSeptets k (i :: xs) = memRead k.primary i :: lookupSeptets k xs := by
  cases xs <;> simp [lookupSeptets, hi]

theorem lookupSeptets_esc_cons (k : Config) (j : Septet) (xs : List Septet) :
    lookupSeptets k (esc :: j :: xs) = memRead k.ext j :: lookupSeptets k xs := by
  simp [lookupSeptets]

/-- With no character at primary index 27 a primary index is never taken for the escape (R70). -/
theorem ne_esc_of_find_primary {k : Config} (h27 : (memRead k.primary 27).valid = false) {c : Nat} {i : Septet}
    (hi : find k.primary c = some i) : i ≠ esc := by
  rintro rfl
  obtain ⟨hentry, -⟩ := (find_eq_some_iff _ _ _).1 hi
  have hvalid : (memRead k.primary esc).valid = true := by rw [hentry]
  exact Bool.false_ne_true (h27.symm.trans hvalid)

/-- The septets of one character read as that character, and those of a dropped one as nothing (R116). -/
theorem lookupSeptets_mapChar_append {k : Config} (h27 : (memRead k.primary 27).valid = false) (c : Nat)
    (xs : List Septet) :
    lookupSeptets k (mapChar k c ++ xs) = (if isDropped k c then [] else [⟨true, c⟩]) ++ lookupSeptets k xs := by
  cases hp : find k.primary c with
  | some i =>
    obtain ⟨hentry, -⟩ := (find_eq_some_iff _ _ _).1 hp
    have hread : lookupSeptets k (i :: xs) = ⟨true, c⟩ :: lookupSeptets k xs := by
      rw [lookupSeptets_cons (ne_esc_of_find_primary h27 hp), hentry]
    simpa [mapChar_primary hp, isDropped, hp] using hread
  | none =>
    cases he : find k.ext c with
    | some j =>
      obtain ⟨hentry, -⟩ := (find_eq_some_iff _ _ _).1 he
      have hread : lookupSeptets k (esc :: j :: xs) = ⟨true, c⟩ :: lookupSeptets k xs := by
        rw [lookupSeptets_esc_cons, hentry]
      simpa [mapChar_extension hp he, isDropped, hp, he] using hread
    | none => simp [mapChar_dropped hp he, isDropped, hp, he]

theorem lookupSeptets_mapAll_append {k : Config} (h27 : (memRead k.primary 27).valid = false) (text : List Nat)
    (xs : List Septet) :
    lookupSeptets k (mapAll k text ++ xs) =
      ((text.filter fun c => !isDropped k c).map fun c => ⟨true, c⟩) ++ lookupSeptets k xs := by
  induction text with
  | nil => rfl
  | cons c text ih =>
    rw [mapAll_cons, List.append_assoc, lookupSeptets_mapChar_append h27, ih]
    cases hdropped : isDropped k c <;> simp [hdropped]

/-- Settles O35: unpacking gives the text's septets and perhaps a 13 after them; the septets read as the text, and the
13, which is no escape, as its primary entry. -/
theorem messageReadsBack : Obligations.MessageReadsBack := by
  intro k text h27
  have hlast : lookupSeptets k [13] = [memRead k.primary 13] := lookupSeptets_cons (by decide) []
  rw [unpack_packAll, lookupSeptets_mapAll_append h27]
  split_ifs
  · rw [hlast]
  · rfl

end Sys2Proof.Machine

/-! # Packing and the final byte (`42_pack.md`)

`Pack` as arithmetic, the streamed packer against `PackAll`, the number of bytes, and the one collision of the
packing. -/

namespace Sys2Proof.Machine

/-! ## `Pack` in arithmetic (R131) -/

theorem one_le_toNat_of_ne_zero {np : BitVec 3} (hnp : np ≠ 0) : 1 ≤ np.toNat := by
  bv_omega

/-- The pending bits fit above the `8 - p` places the shift leaves empty. -/
theorem acc_mul_two_pow_lt {np : BitVec 3} {acc : Septet} (hacc : acc.toNat < 2 ^ np.toNat) :
    acc.toNat * 2 ^ (8 - np.toNat) < 2 ^ 8 := by
  have hnp := np.isLt
  calc acc.toNat * 2 ^ (8 - np.toNat)
      < 2 ^ np.toNat * 2 ^ (8 - np.toNat) := Nat.mul_lt_mul_of_pos_right hacc (Nat.two_pow_pos _)
    _ = 2 ^ 8 := by rw [← Nat.pow_add, Nat.add_sub_cancel' (by omega)]

/-- The bits taken from the septet fill at most those `8 - p` places. -/
theorem septet_div_two_pow_lt {np : BitVec 3} (hnp : np ≠ 0) (x : Septet) :
    x.toNat / 2 ^ (np.toNat - 1) < 2 ^ (8 - np.toNat) := by
  have hpos := one_le_toNat_of_ne_zero hnp
  have hlt := np.isLt
  refine Nat.div_lt_of_lt_mul ?_
  calc x.toNat < 2 ^ 7 := x.isLt
    _ = 2 ^ (np.toNat - 1) * 2 ^ (8 - np.toNat) := by
        rw [← Nat.pow_add, show np.toNat - 1 + (8 - np.toNat) = 7 by omega]

/-- The two parts of the byte do not overlap, so their `or` is their sum. -/
theorem packedByte_toNat {np : BitVec 3} (hnp : np ≠ 0) {acc : Septet} (hacc : acc.toNat < 2 ^ np.toNat)
    (x : Septet) :
    ((acc.setWidth 8 <<< (8 - np.toNat)) ||| (x.setWidth 8 >>> (np.toNat - 1))).toNat =
      acc.toNat * 2 ^ (8 - np.toNat) + x.toNat / 2 ^ (np.toNat - 1) := by
  have hhigh : (acc.setWidth 8 <<< (8 - np.toNat)).toNat = acc.toNat <<< (8 - np.toNat) := by
    rw [BitVec.toNat_shiftLeft, BitVec.toNat_setWidth_of_le (by decide), Nat.shiftLeft_eq,
      Nat.mod_eq_of_lt (acc_mul_two_pow_lt hacc)]
  have hlow : (x.setWidth 8 >>> (np.toNat - 1)).toNat = x.toNat / 2 ^ (np.toNat - 1) := by
    rw [BitVec.toNat_ushiftRight, BitVec.toNat_setWidth_of_le (by decide), Nat.shiftRight_eq_div_pow]
  rw [BitVec.toNat_or, hhigh, hlow, ← Nat.shiftLeft_add_eq_or_of_lt (septet_div_two_pow_lt hnp x), Nat.shiftLeft_eq]

/-- The mask keeps the low `p - 1` bits. -/
theorem packAcc_toNat {np : BitVec 3} (hnp : np ≠ 0) (x : Septet) :
    (packAcc np x).toNat = x.toNat % 2 ^ (np.toNat - 1) := by
  have hmask : 2 ^ (np.toNat - 1) - 1 < 2 ^ 7 :=
    (Nat.sub_le _ _).trans_lt (Nat.pow_lt_pow_right (by decide) (by omega))
  rw [packAcc_of_ne_zero hnp, BitVec.toNat_and, BitVec.toNat_ofNat, Nat.mod_eq_of_lt hmask,
    Nat.and_two_pow_sub_one_eq_mod]

/-- Settles O19: on a byte boundary the septet waits; else the byte is a sum of parts that do not overlap. -/
theorem packArithmetic : Obligations.PackArithmetic := by
  intro acc x
  refine ⟨⟨rfl, rfl, rfl⟩, fun np hnp hacc => ⟨?_, packAcc_toNat hnp x, packNp_toNat hnp⟩⟩
  exact ⟨_, packByte_of_ne_zero hnp acc x, packedByte_toNat hnp hacc x⟩

/-! ## The streamed packer (R135 to R137) -/

/-- Settles O22: the bytes returned hold the completed bit stream, and cutting that stream gives them back. -/
theorem streamedPackingEqualsPackAll : Obligations.StreamedPackingEqualsPackAll :=
  ⟨rfl, packRun_append_flushByte⟩

theorem packRun_zero_length (xs : List Septet) : (packRun 0 0 xs).1.length = 7 * xs.length / 8 := by
  simpa using packRun_length 0 0 xs

/-- Settles O23: `np` is the leftover count `r`, and `7k` and `8 - k mod 8` leave the same rest modulo 8. -/
theorem phaseOfThePacker : Obligations.PhaseOfThePacker := by
  intro xs
  have hnp : (packRun 0 0 xs).2.1.toNat = 7 * xs.length % 8 := packRun_np_toNat xs
  have hrest : 7 * xs.length % 8 = (8 - xs.length % 8) % 8 := by omega
  exact ⟨hnp.trans hrest, hnp, packRun_zero_length xs, pendingBits_packRun xs, packRun_acc_lt xs (by decide)⟩

/-- `Flush` returns a byte exactly when the leftover count is not 0. -/
theorem isSome_flushByte_packRun (xs : List Septet) :
    (flushByte (packRun 0 0 xs).2.1 (packRun 0 0 xs).2.2).isSome = true ↔ 7 * xs.length % 8 ≠ 0 := by
  rw [isSome_flushByte, ← packRun_np_toNat, ne_eq, BitVec.toNat_eq]
  rfl

/-- The final byte rounds the `floor(7N/8)` bytes of `Pack` up. -/
theorem length_packAll (xs : List Septet) : (packAll xs).length = (7 * xs.length + 7) / 8 := by
  have hfinal := isSome_flushByte_packRun xs
  rw [← packRun_append_flushByte, List.length_append, packRun_zero_length]
  generalize flushByte (packRun 0 0 xs).2.1 (packRun 0 0 xs).2.2 = final at hfinal ⊢
  cases final with
  | none =>
    have hr : 7 * xs.length % 8 = 0 := by simpa using hfinal
    rw [Option.toList_none, List.length_nil]
    omega
  | some b =>
    have hr : 7 * xs.length % 8 ≠ 0 := by simpa using hfinal
    rw [Option.toList_some, List.length_singleton]
    omega

/-- Settles O24: `Pack` returns a byte for every eight bits, and `Flush` one more for the bits left over. -/
theorem packedLength : Obligations.PackedLength :=
  fun xs => ⟨length_packAll xs, packRun_zero_length xs, isSome_flushByte_packRun xs⟩

/-! ## The way back, and the collision of the filler (R139) -/

/-- Settles O27: the bytes hold the stream and its filler, and only the filler after one leftover bit is a septet. -/
theorem unpackInvertsPackAll : Obligations.UnpackInvertsPackAll := by
  intro xs
  rw [unpack_packAll]
  split_ifs
  · rfl
  · exact List.append_nil xs

/-- After one leftover bit the filler is the seven bits of the septet 13, which complete the stream by themselves. -/
theorem packAll_append_13 {xs : List Septet} (h : xs.length % 8 = 7) : packAll (xs ++ [13]) = packAll xs := by
  have hfill : fillBits xs.length = septetBits 13 := by
    rw [fillBits, if_neg (by omega), if_pos (by omega)]
    rfl
  have hnofill : fillBits (xs.length + 1) = [] := if_pos (by omega)
  have hstream : bitStream (xs ++ [13]) = bitStream xs ++ septetBits 13 := by simp [bitStream]
  rw [packAll, packAll, List.length_append, List.length_singleton, hstream, hfill, hnofill, List.append_nil]

/-- The carriage return stands at index 13 (R75), so it maps there where it stands at no lower index (R43). -/
theorem mapChar_carriageReturn {k : Config} (hwf : k.wf = true)
    (hlower : ∀ j : Septet, j.toNat < 13 → memRead k.primary j ≠ ⟨true, k.carriageReturn⟩) :
    mapChar k k.carriageReturn = [13] :=
  mapChar_primary ((find_eq_some_iff _ _ _).2 ⟨memRead_carriageReturn hwf, hlower⟩)

/-- Settles O26: a septet 13 after the stream is its filler, and the carriage return adds that septet to the text. -/
theorem fillerCollidesWithCarriageReturn : Obligations.FillerCollidesWithCarriageReturn := by
  refine ⟨fun xs hlen => ⟨(packAll_append_13 hlen).symm, ?_⟩, fun k text hwf hlower hlen => ?_⟩
  · rw [unpack_packAll, if_pos hlen]
  · have hmap : mapAll k (text ++ [k.carriageReturn]) = mapAll k text ++ [13] := by
      simp [mapAll, mapChar_carriageReturn hwf hlower]
    rw [encodeText, encodeText, hmap, packAll_append_13 hlen]

end Sys2Proof.Machine

/-! # The hex renderer (`43_hex.md`)

The digits, the two nibbles of a byte, and the hex string of a byte sequence: its length and the way back. -/

namespace Sys2Proof.Machine

/-! ## Digits (R151) -/

theorem digit_of_le {n : Nibble} (h : n.toNat ≤ 9) : digit n = 0x30 + n.setWidth 8 := if_pos h

theorem digit_of_ge {n : Nibble} (h : 10 ≤ n.toNat) : digit n = 0x37 + n.setWidth 8 := if_neg (by omega)

theorem digitCodes_getElem? (n : Nibble) : digitCodes[n.toNat]? = some (digit n) := by
  revert n
  decide

/-- None of the sixteen codes has its top bit set. -/
theorem getLsbD_seven_of_mem_digitCodes : ∀ d ∈ digitCodes, d.getLsbD 7 = false := by decide

/-- Settles O29: the two ranges of a nibble, and its place in the list of codes, which all have bit 7 clear. -/
theorem digitCodesAsListed : Obligations.DigitCodesAsListed := fun n =>
  ⟨digit_of_le, digit_of_ge, digitCodes_getElem? n, getLsbD_seven_of_mem_digitCodes _ (digit_mem_digitCodes n)⟩

@[simp] theorem digitValue_digit (n : Nibble) : digitValue (digit n) = n := by
  revert n
  decide

/-! ## The nibbles of a byte (R47, R150) -/

theorem highNibble_toNat (b : Byte) : (highNibble b).toNat = b.toNat / 16 := by
  have hb := b.isLt
  rw [highNibble, BitVec.extractLsb'_toNat, Nat.shiftRight_eq_div_pow]
  omega

theorem lowNibble_toNat (b : Byte) : (lowNibble b).toNat = b.toNat % 16 := by
  rw [lowNibble, BitVec.extractLsb'_toNat, Nat.shiftRight_zero]

@[simp] theorem highNibble_append_lowNibble (b : Byte) : highNibble b ++ lowNibble b = b :=
  (BitVec.extractLsb'_append_extractLsb'_eq_extractLsb' (rfl : 4 = 0 + 4)).trans BitVec.extractLsb'_eq_self

/-- The two `Emit`s of a byte append its two tokens to queue and trace. -/
theorem emitByte_some (s : State) (b : Byte) :
    s.emitByte (some b) = { s with oq := s.oq ++ hexTokens b, out := s.out ++ hexTokens b } := by
  simp [State.emitByte, State.emit, hexTokens]

/-- Settles O30: the nibbles are quotient and remainder by 16, and the byte's tokens are their digits. -/
theorem hexRendersHighNibbleFirst : Obligations.HexRendersHighNibbleFirst := fun b s =>
  ⟨highNibble_toNat b, lowNibble_toNat b, emitByte_some s b⟩

/-! ## The hex string of a byte sequence (R152 to R154) -/

theorem hexStr_cons (b : Byte) (bs : List Byte) :
    hexStr (b :: bs) = digit (highNibble b) :: digit (lowNibble b) :: hexStr bs := rfl

/-- Two digits read as the byte they were rendered from. -/
theorem readHex_hexStr (bs : List Byte) : readHex (hexStr bs) = bs := by
  induction bs with
  | nil => rfl
  | cons b bs ih =>
    rw [hexStr_cons, readHex, digitValue_digit, digitValue_digit, highNibble_append_lowNibble, ih]

/-- Settles O31: reading inverts rendering, so rendering is injective. -/
theorem hexStringDeterminesBytes : Obligations.HexStringDeterminesBytes :=
  ⟨Function.LeftInverse.injective readHex_hexStr, readHex_hexStr⟩

/-- The characters are as many as the tokens that carry them. -/
theorem length_hexStr (bs : List Byte) : (hexStr bs).length = 2 * bs.length := by
  rw [← List.length_map hexToken, map_hexToken_hexStr, length_flatMap_hexTokens]

/-- Settles O32: two characters for each of the `ceil(7N/8)` bytes, which are none exactly for no septet. -/
theorem hexStringLength : Obligations.HexStringLength := by
  intro k text
  have hlen : (encodeText k text).length = 2 * ((7 * (mapAll k text).length + 7) / 8) := by
    rw [encodeText, length_hexStr, length_packAll]
  refine ⟨hlen, ?_⟩
  rw [← List.length_eq_zero_iff, hlen]
  omega

end Sys2Proof.Machine

/-! # No transition fails (`60_exceptions.md` R160) -/

namespace Sys2Proof.Machine

/-- Settles O15: a command answers the record update of `exec_eq`, a clock cycle one of the three results of
`step_cases`, by `exists_step`, and `Fault` has no constructor. -/
theorem nothingStopsTheBlock : Obligations.NothingStopsTheBlock :=
  ⟨fun i s => ⟨_, exec_eq i s⟩, exists_step, nofun⟩

end Sys2Proof.Machine

/-! # Reset and hazards (`70_reset_and_hazards.md`)

The reset pin, what `END` separates, a queue deep enough for a whole message, a host that drains the queue, and the
septet count behind a number of bytes. -/

namespace Sys2Proof.Machine

/-! ## A deep queue takes a whole message (R186)

Whoever takes nothing fills the queue, by two tokens for every eight bits. As long as four places stay free for the next
command every cycle runs one, so the run of the clock is the run of the message's commands. -/

/-- A host that offers its next command and takes no token. -/
def HostCycle.offering : HostCycle := ⟨false, true, false⟩

/-- A command does not see what the host has still to present. -/
theorem exec_withHost {i : Instr} {s t : State} (h : exec i s = .next t) (words : List Nat) (pins : List HostCycle) :
    exec i (s.withHost words pins) = .next (t.withHost words pins) :=
  act_withHost (a := .command i) h words pins

/-- With four places free an offered command runs, and the host's side moves on. -/
theorem step_of_offering {i : Instr} {s t : State} {ws : List Nat} {ps : List HostCycle}
    (hwf : i.wf s.cfg.charW = true) (hroom : s.oq.length + 4 ≤ s.cfg.oqDepth)
    (hstream : s.cmdStream = encode s.cfg.charW i :: ws) (hcycles : s.cycles = .offering :: ps)
    (hexec : exec i s = .next t) : step s = .next (t.withHost ws ps) := by
  have hdecode := decodeOfEncodeIsIdentity s.cfg.charW i hwf
  obtain ⟨hrun, -⟩ := stepRunsTheDecodedCommand s _ ps _ ws i hcycles rfl rfl hroom hstream hdecode
  exact (hrun rfl).trans (exec_withHost hexec ws ps)

/-- `CHAR` turns the pending bits and those of its septets into bytes, two tokens each, and keeps the rest. -/
theorem exec_char_counts {c : Nat} {s t : State} (h : exec (.char c) s = .next t) :
    ∃ bytes : Nat, t.oq.length = s.oq.length + 2 * bytes ∧
      8 * bytes + t.np.toNat = s.np.toNat + 7 * (mapChar s.cfg c).length := by
  have hbits := congrArg List.length (pendingBits_append_bitStream s.np s.acc (mapChar s.cfg c))
  rw [exec, execChar_eq] at h
  cases h
  refine ⟨(packRun s.np s.acc (mapChar s.cfg c)).1.length, by rw [List.length_append, length_flatMap_hexTokens], ?_⟩
  simpa only [List.length_append, length_pendingBits, length_bitStream, length_flatMap_byteBits] using hbits.symm

/-- `chars` more characters leave four places free: none has more than two septets, and eight bits make two tokens. -/
def State.RoomFor (s : State) (chars : Nat) : Prop :=
  s.oq.length + 2 * ((s.np.toNat + 14 * chars) / 8) + 4 ≤ s.cfg.oqDepth

theorem State.RoomFor.four_le {s : State} {chars : Nat} (h : s.RoomFor chars) :
    s.oq.length + 4 ≤ s.cfg.oqDepth := by
  rw [State.RoomFor] at h
  omega

theorem State.RoomFor.exec_char {s t : State} {c chars : Nat} (h : s.RoomFor (chars + 1))
    (hexec : exec (.char c) s = .next t) : t.RoomFor chars := by
  obtain ⟨bytes, hqueue, hbits⟩ := exec_char_counts hexec
  have hseptets := mapChar_length_le s.cfg c
  rw [State.RoomFor] at h ⊢
  rw [exec_keeps_cfg hexec, hqueue]
  omega

/-- By induction on the text: every character is accepted in its cycle, and so is `END` after the last. -/
theorem runSteps_msgWords {text : List Nat} {s : State} (hroom : s.RoomFor text.length)
    (htext : ∀ c ∈ text, c < 2 ^ s.cfg.charW) (hstream : s.cmdStream = msgWords s.cfg.charW text)
    (hcycles : s.cycles = List.replicate (text.length + 1) .offering) :
    runSteps (text.length + 1) s = runCommands (msgCommands text) (s.withHost [] []) := by
  induction text generalizing s with
  | nil =>
    have hexec := exec_eq .endMsg s
    have hstep := step_of_offering (i := .endMsg) rfl hroom.four_le hstream hcycles hexec
    have hcommand := runCommands_cons (exec_withHost hexec [] []) []
    exact (runSteps_succ hstep 0).trans hcommand.symm
  | cons c cs ih =>
    obtain ⟨hc, hcs⟩ := List.forall_mem_cons.1 htext
    obtain ⟨t, hexec⟩ : ∃ t, exec (.char c) s = .next t := ⟨_, exec_eq (.char c) s⟩
    have hcfg : t.cfg = s.cfg := exec_keeps_cfg hexec
    have hstep := step_of_offering (i := .char c) (decide_eq_true hc) hroom.four_le hstream hcycles hexec
    have hlater : t.RoomFor cs.length := hroom.exec_char hexec
    have hrest := ih (s := t.withHost (msgWords s.cfg.charW cs) (List.replicate (cs.length + 1) .offering)) hlater
      (by rwa [State.withHost_cfg, hcfg]) (by rw [State.withHost_cmdStream, State.withHost_cfg, hcfg]) rfl
    have hcommand := runCommands_cons (exec_withHost hexec [] []) (msgCommands cs)
    exact (runSteps_succ hstep _).trans (hrest.trans hcommand.symm)

/-- Settles O49: the clock runs the commands of `MSG` one a cycle, and these emit the tokens of the message. -/
theorem deepQueueTakesWholeMessage : Obligations.DeepQueueTakesWholeMessage := by
  intro text s hnp hacc hoq htext hdepth hstream hcycles
  have hroom : s.RoomFor text.length := by
    have hzero : s.np.toNat = 0 := by rw [hnp]; rfl
    rw [State.RoomFor, hoq, hzero, List.length_nil]
    omega
  have hrun := runSteps_msgWords hroom htext hstream hcycles
  rw [runCommands_msgCommands (s := s.withHost [] []) hnp hacc] at hrun
  exact ⟨_, hrun, rfl, rfl, by simp [State.withHost, hoq], rfl⟩

/-! ## A draining host (R190) -/

theorem exists_runSteps (k : Nat) (s : State) : ∃ t, runSteps k s = .next t := by
  induction k generalizing s with
  | zero => exact ⟨s, rfl⟩
  | succ k ih =>
    obtain ⟨m, hstep⟩ := exists_step s
    obtain ⟨t, hrun⟩ := ih m
    exact ⟨t, (runSteps_succ hstep k).trans hrun⟩

/-- A run only takes words off the stream. -/
theorem runSteps_cmdStream_length_le {k : Nat} {s t : State} (h : runSteps k s = .next t) :
    t.cmdStream.length ≤ s.cmdStream.length := by
  obtain ⟨n, acts, u, -, -, -, -, rfl⟩ := isActionRun_of_runSteps h
  exact (List.drop_sublist n s.cmdStream).length_le

theorem step_accepts {s t : State} (hrst : s.pins.rst = false) (hvalid : s.pins.inValid = true)
    (hroom : s.oq.length + 4 ≤ s.cfg.oqDepth) (hstream : s.cmdStream ≠ []) (h : step s = .next t) :
    t.cmdStream.length < s.cmdStream.length := by
  obtain ⟨w, ws, hwords⟩ := List.exists_cons_of_ne_nil hstream
  rw [step_of_accepted hrst (accepted_of_offered hvalid hroom hwords)] at h
  obtain ⟨-, -, hconsumed, -⟩ := commandFrame _ _ _ h
  simp [hconsumed, hwords]

/-- With room in the queue the first of any number of cycles accepts, and no later one gives a word back. -/
theorem exists_runSteps_of_room (k : Nat) {s : State} (hpins : s.pins = .draining)
    (hroom : s.oq.length + 4 ≤ s.cfg.oqDepth) (hstream : s.cmdStream ≠ []) :
    ∃ t, runSteps (k + 1) s = .next t ∧ t.cmdStream.length < s.cmdStream.length := by
  obtain ⟨m, hstep⟩ := exists_step s
  obtain ⟨t, hrun⟩ := exists_runSteps k m
  have haccepted := step_accepts (by rw [hpins]; rfl) (by rw [hpins]; rfl) hroom hstream hstep
  exact ⟨t, (runSteps_succ hstep k).trans hrun, (runSteps_cmdStream_length_le hrun).trans_lt haccepted⟩

theorem draining_of_take {s : State} {k : Nat} (h : s.cycles.take (k + 1) = List.replicate (k + 1) .draining) :
    s.pins = .draining ∧ s.cycles.tail.take k = List.replicate k .draining := by
  cases hcycles : s.cycles with
  | nil => simp [hcycles, List.replicate_succ] at h
  | cons p ps =>
    rw [hcycles, List.take_succ_cons, List.replicate_succ, List.cons.injEq] at h
    rw [State.pins_of_cycles_cons hcycles]
    exact h

/-- `k` tokens in the way of a command are gone after `k` cycles of a draining host, and the next accepts it. -/
theorem exists_runSteps_accepting (k : Nat) {s : State} (hdepth : 4 ≤ s.cfg.oqDepth)
    (hroom : s.oq.length + 4 ≤ s.cfg.oqDepth + k) (hstream : s.cmdStream ≠ [])
    (hcycles : s.cycles.take (k + 1) = List.replicate (k + 1) .draining) :
    ∃ t, runSteps (k + 1) s = .next t ∧ t.cmdStream.length < s.cmdStream.length := by
  induction k generalizing s with
  | zero =>
    obtain ⟨hpins, -⟩ := draining_of_take hcycles
    exact exists_runSteps_of_room 0 hpins hroom hstream
  | succ k ih =>
    obtain ⟨hpins, hlater⟩ := draining_of_take hcycles
    obtain hnow | hfull := le_or_gt (s.oq.length + 4) s.cfg.oqDepth
    · exact exists_runSteps_of_room (k + 1) hpins hnow hstream
    · have hstep := step_of_not_accepted (by rw [hpins]; rfl) (accepted_eq_none (.inr (.inr hfull)))
      have htaken : (s.tick.outputTransfer s.pins).oq.length = s.oq.length - 1 := by
        simp [State.outputTransfer_eq, hpins, HostCycle.draining]
      obtain ⟨t, hrun, haccepted⟩ := ih (s := s.tick.outputTransfer s.pins) (by simpa using hdepth)
        (by rw [htaken, State.outputTransfer_cfg, State.tick_cfg]; omega) (by simpa using hstream)
        (by simpa using hlater)
      exact ⟨t, (runSteps_succ hstep _).trans hrun, by simpa using haccepted⟩

/-- Settles O50: at most four tokens of a full queue are in the way. -/
theorem drainedQueueAcceptsACommand : Obligations.DrainedQueueAcceptsACommand :=
  fun _ hdepth hfits hstream hcycles =>
    exists_runSteps_accepting 4 hdepth (Nat.add_le_add_right hfits 4) hstream hcycles

/-! ## Reset and the end of a message (R180, R183) -/

/-- Settles O39: the pins are read before anything else, and reset is the whole of such a cycle. -/
theorem resetPinWins : Obligations.ResetPinWins := by
  intro s p ps hcycles hrst
  have hpins : s.pins = p := State.pins_of_cycles_cons hcycles
  obtain ⟨-, hstep⟩ | ⟨hnorst, -⟩ | ⟨i, hnorst, -⟩ := step_cases s
  · rw [hstep, State.resetPin, State.tick, hcycles, List.tail_cons]
  · rw [hpins, hrst] at hnorst
    cases hnorst
  · rw [hpins, hrst] at hnorst
    cases hnorst

/-- `END` ends with `Flush`'s registers, whatever was pending (R132 to R134). -/
theorem exec_endMsg_regs {s t : State} (h : exec .endMsg s = .next t) : t.np = 0 ∧ t.acc = 0 := by
  rw [exec_eq] at h
  cases h
  exact ⟨rfl, rfl⟩

/-- Settles O36: after `END` two blocks of one configuration hold the same tables and registers, which is all that
commands read. -/
theorem endSeparatesMessages : Obligations.EndSeparatesMessages := by
  refine ⟨fun s t => exec_endMsg_regs, fun s₁ s₂ t₁ t₂ is hcfg hend₁ hend₂ => ?_⟩
  obtain ⟨hnp₁, hacc₁⟩ := exec_endMsg_regs hend₁
  obtain ⟨hnp₂, hacc₂⟩ := exec_endMsg_regs hend₂
  have hcfg : t₁.cfg = t₂.cfg := by rw [exec_keeps_cfg hend₁, exec_keeps_cfg hend₂, hcfg]
  exact queueNeverChangesTokens is t₁ t₂ (congrArg _ hcfg) (congrArg _ hcfg) (hnp₁.trans hnp₂.symm)
    (hacc₁.trans hacc₂.symm)

/-! ## The septet count behind a number of bytes (R188) -/

/-- Settles O28: `N` septets make `ceil(7N/8)` bytes, which have room for one more septet exactly when they are full
with `N + 1`. -/
theorem bytesFixSeptetCountToWithinOne : Obligations.BytesFixSeptetCountToWithinOne := by
  intro xs
  have hlow : 7 * xs.length ≤ 8 * (packAll xs).length := by rw [length_packAll]; omega
  have hhigh : 8 * (packAll xs).length ≤ 7 * xs.length + 7 := by rw [length_packAll]; omega
  by_cases hfull : 8 * (packAll xs).length = 7 * (xs.length + 1)
  · right
    have hcount : 8 * (packAll xs).length / 7 = xs.length + 1 := by omega
    have hoctet : (xs.length + 1) % 8 = 0 := by omega
    exact ⟨by omega, hcount ▸ hoctet, hcount.symm⟩
  · left
    omega

end Sys2Proof.Machine
